-- ==== Sys2Proof/Word.lean ====
section
/-! DEFINITION. The words of the EF420: bytes of frames, 32-bit codes, and sets of chains and of link causes
as bit sets (00_scope.md 0.10; 10, Table 10-5). -/

namespace Sys2Proof

/-- One byte of a frame. -/
abbrev Byte := BitVec 8

/-- A 32-bit identity code, match value, mask or instruction code (10, Table 10-5). -/
abbrev Word32 := BitVec 32

end Sys2Proof
end

