-- ==== Sys2Proof/Syntax.lean ====
section
/-! DEFINITION. The commands of the EF420: one constructor for each row of spec/opcode_table.json. A request
row names its link alone: the request's sequence number and parameters are the bytes of the frame that stands
in that link's request slot (R131, R172; log entry 2). What arrives on a pin is an operand (log entry 3). -/

namespace Sys2Proof

/-- A host link L0 to L3, and the session of the same number (R130). -/
abbrev LinkId := Fin 4

/-- The session of the link with the same number (0.11). -/
abbrev SessionId := Fin 4

/-- A chain C0 to C3. -/
abbrev ChainId := Fin 4

/-- A record slot S0 to S31 (R1). -/
abbrev SlotId := Fin 32

/-- A job slot J0 to J15 (R74). -/
abbrev JobId := Fin 16

/-- An event line E0 to E7 (R156). -/
abbrev LineId := Fin 8

/-- What the character receiver sampled of one character whose start bit held (R166). A level is `true` at
marking. `allSpacing` says that every sample from the middle of the start bit has read spacing, which makes
the character a break candidate; CHARACTER_RECEIVED of such a candidate means that the further sample of R167
read marking (where it reads spacing the event is BREAK). DESIGN CHOICE (log entry 16): R166 leaves open whether every
sample means the middles of the bits or all 16 in each bit, so the flag is an operand of its own and either reading can
be given. -/
structure CharSamples where
  data : Byte
  parity : Bool
  stop : Bool
  allSpacing : Bool
  deriving DecidableEq, Repr

/-- The six straps as sampled at the end of the internal reset (R186): BAUDSEL1 and BAUDSEL0 as a number,
and bit n of `chainEn` for CHAIN_ENn. -/
structure Straps where
  baudsel : BitVec 2
  chainEn : BitVec 4
  deriving DecidableEq, Repr

/-- The commands: one constructor for each row of spec/opcode_table.json, in the table's order. -/
inductive Instr where
  | powerOn
  | internalResetEnd (straps : Straps) (resetNHigh : Bool)
  | resetNAssert
  | resetNRelease
  | characterReceived (l : LinkId) (x : CharSamples)
  | breakTaken (l : LinkId)
  | gapExpiry (l : LinkId)
  | replyStart (l : LinkId)
  | replyEnd (l : LinkId)
  | noticeStart (l : LinkId)
  | noticeEnd (l : LinkId)
  | unknownCommand (l : LinkId)
  | openSession (l : LinkId)
  | closeSession (l : LinkId)
  | ping (l : LinkId)
  | linkFormat (l : LinkId)
  | linkStatus (l : LinkId)
  | list (l : LinkId)
  | lookup (l : LinkId)
  | find (l : LinkId)
  | describe (l : LinkId)
  | claim (l : LinkId)
  | release (l : LinkId)
  | scanIr (l : LinkId)
  | scanDr (l : LinkId)
  | chainReset (l : LinkId)
  | fetch (l : LinkId)
  | cancel (l : LinkId)
  | rescan (l : LinkId)
  | chainConfig (l : LinkId)
  | profileAdd (l : LinkId)
  | profileDrop (l : LinkId)
  | profileRead (l : LinkId)
  | bindEvent (l : LinkId)
  | unbindEvent (l : LinkId)
  | eventStatus (l : LinkId)
  | keepaliveExpiry (l : LinkId)
  | waitLimitExpiry (j : JobId)
  | grant (c : ChainId)
  | scanCompletion (c : ChainId) (tdi : List Bool)
  | chainResetCompletion (c : ChainId)
  | returnCompletion (c : ChainId)
  | testResetComplete (c : ChainId)
  | idRead (c : ChainId) (tdi : List Bool)
  | irMeasure (c : ChainId) (tdi : List Bool)
  | bypassCount (c : ChainId) (tdi : List Bool)
  | closingAction (c : ChainId)
  | eventLineSample (pins : BitVec 8)
  | lineAtMarking (l : LinkId)
  | startBit (l : LinkId)
  | startBitNoise (l : LinkId)
  deriving DecidableEq, Repr

end Sys2Proof
end

