-- ==== Sys2Proof/Config.lean ====
section
/-! DEFINITION. The numbers the spec fixes for every EF420. The spec leaves no result value open, so there
is no free value here (INVENTORY.md, What the manual leaves open). -/

namespace Sys2Proof.Config

/-- The sync byte of a frame (R169, R176). -/
def sync : Byte := 0xD5#8

/-- Body byte 0 of a NOTICE frame (R153, R185). -/
def noticeCode : Byte := 0xF0#8

/-- The reply code to a command code outside Table 10-3 (R182). -/
def unknownReplyCode : Byte := 0xFF#8

/-- The part code that PING reports (R136). -/
def partCode : Nat := 0x0420

/-- The revision that PING reports (R136). -/
def revision : Byte := 1#8

/-- The most jobs one session holds (R77). -/
def jobLimit : Nat := 4

/-- The most entries of the Profile Table (R51). -/
def profileLimit : Nat := 16

/-- The most targets enumeration accepts on one chain (R32). -/
def targetLimit : Nat := 16

/-- Zeros shifted first by IR_MEASURE, and the highest measurable total (R33). -/
def measureZeros : Nat := 512

/-- The longest data register a catalogue entry may give and the longest DR job (R13, R81). -/
def maxDrLength : Nat := 1024

/-- The record slots' generations run from 1 to this (R2). -/
def maxSlotGeneration : Nat := 2047

/-- The job slots' generations run from 1 to this (R75). -/
def maxJobGeneration : Nat := 15

/-- Ticks in one second of a keepalive period (R140, R187). -/
def ticksPerSecond : Nat := 1000

end Sys2Proof.Config
end

