-- ==== Sys2Proof/Machine/State.lean ====
section
/-! DEFINITION. The state of the EF420: every table, register, set, timer and mode the spec gives it, as plain
data, and the state right after reset. Views that the spec names beside a stored field (handles, tickets, the
event binding of a record, the base divisor, the output pins) are functions of it (INVENTORY.md, State). -/

namespace Sys2Proof.Machine

/-! ### The Host Link Units (R164) -/

/-- The parity setting of a link format (R165). -/
inductive Parity where
  | none
  | even
  | odd
  deriving DecidableEq, Repr

/-- The stop-bit count of a link format (R165). -/
inductive StopBits where
  | one
  | two
  deriving DecidableEq, Repr

/-- A link format: divisor 1 to 65535, parity and stop bits (R164, R165). -/
structure LinkFormat where
  divisor : Nat
  parity : Parity
  stopBits : StopBits
  deriving DecidableEq, Repr

/-- The character receiver's state. In CHARACTER it holds the format in force at the start edge, by which the
character is received (R166). -/
inductive Receiver where
  | markWait
  | startWait
  | character (format : LinkFormat)
  deriving DecidableEq, Repr

/-- The frame assembler's state with the frame in assembly (R164, R169): in BODY the length byte and the body
bytes so far, in CHECK also the first check byte once it has come. -/
inductive Assembler where
  | hunt
  | length
  | body (len : Byte) (got : List Byte)
  | check (len : Byte) (got : List Byte) (high : Option Byte)
  deriving DecidableEq, Repr

/-- The gap timer (R164, R171): not running; running; running while a candidate start bit, which stops the timer
if it leads to a character, is being received; or at its limit while that is still open (log entry 15). Its count
is timing (log entry 6). -/
inductive GapTimer where
  | stopped
  | running
  | candidate
  | overdue
  deriving DecidableEq, Repr

/-- The request slot (R172). HELD is `untaken`, with the frame's body, until the session takes the frame and
`taken` from then to the end of the reply. -/
inductive RequestSlot where
  | empty
  | untaken (body : List Byte)
  | taken
  deriving DecidableEq, Repr

/-- The transmitter (R176): IDLE, or sending a reply or a NOTICE. The bytes are the whole frame, and the format
is the one in force at its first start bit. -/
inductive Transmitter where
  | idle
  | reply (frame : List Byte) (format : LinkFormat)
  | notice (frame : List Byte) (format : LinkFormat)
  deriving DecidableEq, Repr

/-- One Host Link Unit (R164). `causes` has bit n of the link cause set of Table 10-5; `waiting` is the body of
a reply that waits for the transmitter (R152). -/
structure Hlu where
  format : LinkFormat
  receiver : Receiver
  assembler : Assembler
  gap : GapTimer
  slot : RequestSlot
  causes : BitVec 7
  tx : Transmitter
  waiting : Option (List Byte)
  queuedNotice : Bool
  pendingFormat : Option LinkFormat
  deriving DecidableEq, Repr

/-! ### The Session Table (R130) -/

/-- The replay store's content: the sequence number, the reply body as it was built, and the format that a
LINK-FORMAT reply carries (R137). -/
structure StoredReply where
  seq : Byte
  body : List Byte
  format : Option LinkFormat
  deriving DecidableEq, Repr

/-- An OPEN session's fields (R130). The sets have bit n for chain Cn. The keepalive timer counts milliseconds
and is absent when the period is 0 (R140). -/
structure Session where
  tag : List Byte
  period : Nat
  timer : Option Nat
  push : Bool
  watch : BitVec 4
  changed : BitVec 4
  stored : Option StoredReply
  deriving DecidableEq, Repr

/-! ### The Target Directory (R1 to R17) -/

/-- The class of a catalogue entry (R14). -/
inductive InstrClass where
  | inert
  | held
  deriving DecidableEq, Repr

/-- A catalogue entry: instruction code, DR length of 1 to 1024 and class (R13). -/
structure CatEntry where
  code : Word32
  drLength : Nat
  cls : InstrClass
  deriving DecidableEq, Repr

/-- A record's state with its owner (R9): CLAIMED always has one, SUSPECT may, AVAILABLE and RELEASING never. -/
inductive RecordState where
  | available
  | claimed (owner : SessionId)
  | releasing
  | suspect (owner : Option SessionId)
  deriving DecidableEq, Repr

/-- How a present IR length became known (R11). -/
inductive ShapeSource where
  | profile
  | host
  | deduced
  deriving DecidableEq, Repr

/-- IR length and shape source together: the source is NONE exactly when the length is absent (R11). -/
inductive Shape where
  | unknown
  | known (irLength : Nat) (source : ShapeSource)
  deriving DecidableEq, Repr

/-- The resident instruction (R15). -/
inductive Resident where
  | resetDefault
  | index (i : Fin 8)
  | unknown
  deriving DecidableEq, Repr

/-- A live target record (Table 1-1). `entries` holds catalogue places 1 to 7, place i at index i − 1; place 0
is computed (R12). The handle comes from the slot (R3), the event binding from the event lines (R17). -/
structure TargetRecord where
  chain : ChainId
  position : Fin 16
  state : RecordState
  identity : Option Word32
  shape : Shape
  entries : Vector (Option CatEntry) 7
  resident : Resident
  deriving DecidableEq, Repr

/-- A record slot: its generation, and the live record or nothing when the slot is FREE (R1, R2). -/
structure RecordSlot where
  generation : Nat
  record : Option TargetRecord
  deriving DecidableEq, Repr

/-! ### The Profile Table (R51) -/

/-- An entry of the Profile Table (R51). -/
structure Profile where
  value : Word32
  mask : Word32
  irLength : Nat
  entries : List CatEntry
  deriving DecidableEq, Repr

/-! ### The Job Table (R74) -/

/-- A target record's handle: generation times 32 plus slot (R3). -/
abbrev Handle := Nat

/-- A job's kind with the kind's own fields (R74). A DR job's bit length is the number of its out bits. -/
inductive JobKind where
  | ir (target : Handle) (index : Fin 8)
  | dr (target : Handle) (out : List Bool)
  | chainReset
  deriving DecidableEq, Repr

/-- A DONE job's outcome (R74). -/
inductive JobOutcome where
  | ok
  | timeout
  | chainFault
  | lengthMismatch
  deriving DecidableEq, Repr

/-- A job's state (R74): QUEUED with its wait timer, absent when the wait limit is 0 (R90); RUNNING; DONE with
outcome and captured data. -/
inductive JobStatus where
  | queued (timer : Option Nat)
  | running
  | done (outcome : JobOutcome) (captured : List Bool)
  deriving DecidableEq, Repr

/-- A job record (R74). The session is absent in an orphan. -/
structure Job where
  session : Option SessionId
  kind : JobKind
  chain : ChainId
  idle : Nat
  waitLimit : Nat
  status : JobStatus
  deriving DecidableEq, Repr

/-- A job slot: its generation, and the job or nothing when the slot is FREE (R74, R75). -/
structure JobSlot where
  generation : Nat
  job : Option Job
  deriving DecidableEq, Repr

/-! ### The Chain Controllers (R27, R100) -/

/-- The fault cause of a chain in FAULT (R27); outside FAULT the cause is NONE. -/
inductive FaultCause where
  | check
  | tooMany
  | irOverflow
  | irShort
  | countMismatch
  | directoryFull
  deriving DecidableEq, Repr

/-- The reset destination of a RESETTING chain (R27). -/
inductive Destination where
  | enumerate
  | returning
  deriving DecidableEq, Repr

/-- The TCK divisor and TRST use of a chain (R27, R50). -/
structure TckSettings where
  divisor : Nat
  trstUse : Bool
  deriving DecidableEq, Repr

/-- The step an ENUMERATING chain is at, with what the steps before it found (R31 to R35): the identity codes
by position, the total IR length and the capture pattern. -/
inductive EnumStep where
  | idRead
  | irMeasure (ids : List (Option Word32))
  | bypassCount (ids : List (Option Word32)) (total : Nat) (pattern : List Bool)
  | closing (ids : List (Option Word32)) (total : Nat) (pattern : List Bool)
  deriving DecidableEq, Repr

/-- Where a scan comes from (R100). -/
inductive ScanSource where
  | job (j : JobId)
  | park (h : Handle)
  deriving DecidableEq, Repr

/-- The kind of a scan (R100). -/
inductive ScanKind where
  | ir
  | dr
  | reset
  deriving DecidableEq, Repr

/-- What a segment's returned bits are checked against (R105, R107): nothing, the instruction capture
signature, or these bits exactly. -/
inductive Expectation where
  | nothing
  | signature
  | exactly (bits : List Bool)
  deriving DecidableEq, Repr

/-- One position of the segment table (R100): the bits shifted into it, as many as the segment is long, bit 0
first, and the expectation of its returned bits. -/
structure Segment where
  out : List Bool
  expect : Expectation
  deriving DecidableEq, Repr

/-- The phase of a scan (R100, R103). -/
inductive ScanPhase where
  | entry
  | shift
  | exit
  | idleHold
  deriving DecidableEq, Repr

/-- The scan in progress (R100). `segments` lists the segment table from position 0 upward. -/
structure Scan where
  source : ScanSource
  kind : ScanKind
  addressed : Option (Fin 16)
  segments : List Segment
  idle : Nat
  divisor : Nat
  phase : ScanPhase
  returned : List Bool
  deriving DecidableEq, Repr

/-- The chain state (R27, R28) with what belongs to it: a RESETTING chain has a destination, an ENUMERATING
chain is at a step, a chain is SCANNING exactly while it has a scan in progress (R100), and a chain has a fault
cause other than NONE exactly in FAULT (R27). -/
inductive ChainPhase where
  | disabled
  | resetting (dest : Destination)
  | enumerating (step : EnumStep)
  | ready
  | scanning (scan : Scan)
  | fault (cause : FaultCause)
  deriving DecidableEq, Repr

/-- One Chain Controller (R27, R63, R84). `op` holds the settings of the chain operation in progress (R50). -/
structure Chain where
  phase : ChainPhase
  targetCount : Nat
  totalIr : Nat
  capture : List Bool
  profileConflict : Bool
  settings : TckSettings
  op : Option TckSettings
  queue : List JobId
  parks : List Handle
  deriving DecidableEq, Repr

/-! ### The Event Monitor (R156) -/

/-- A line's taken level (R156). -/
inductive TakenLevel where
  | unsettled
  | low
  | high
  deriving DecidableEq, Repr

/-- A line's polarity (R156). -/
inductive Polarity where
  | assertHigh
  | assertLow
  deriving DecidableEq, Repr

/-- A line's report mode (R156). -/
inductive ReportMode where
  | assertOnly
  | both
  deriving DecidableEq, Repr

/-- One line record (R156). A candidate of `some true` is HIGH. -/
structure EventLine where
  taken : TakenLevel
  candidate : Option Bool
  binding : Option Handle
  polarity : Polarity
  mode : ReportMode
  flag : Bool
  deriving DecidableEq, Repr

/-! ### The part -/

/-- The internal reset of power-on, or operation (R186). -/
inductive Power where
  | internalReset
  | operating
  deriving DecidableEq, Repr

/-- The state of the part. `pending` is the model's own: the commands that wait, the next one first. -/
structure State where
  power : Power
  resetLow : Bool
  straps : Straps
  tickRunning : Bool
  links : Vector Hlu 4
  sessions : Vector (Option Session) 4
  slots : Vector RecordSlot 32
  profiles : List Profile
  jobs : Vector JobSlot 16
  chains : Vector Chain 4
  lines : Vector EventLine 8
  pending : List Instr
  deriving DecidableEq, Repr

/-- No step of the part ends in a fault: nothing the spec describes stops it. A chain fault (R117) and an
enumeration fault (R36) are states of a chain, and a refused request is an outcome in a reply. -/
inductive Fault where
  deriving DecidableEq, Repr

/-- The one refusal there can be. -/
inductive Refusal where
  /-- Raised by an arm of `exec` for a command without a meaning; safe, the model stops. No arm raises it. -/
  | notModelled (mnemonic : String)
  deriving DecidableEq, Repr

/-! ### After reset -/

/-- A Host Link Unit's power-on and warm-reset value, for the link's base divisor (R164, R165). -/
def Hlu.powerOn (baseDivisor : Nat) : Hlu where
  format := ⟨baseDivisor, .none, .one⟩
  receiver := .markWait
  assembler := .hunt
  gap := .stopped
  slot := .empty
  causes := 0#7
  tx := .idle
  waiting := none
  queuedNotice := false
  pendingFormat := none

/-- A Chain Controller's power-on value in the given chain state (R27, R63, R84, R99). -/
def Chain.powerOn (phase : ChainPhase) : Chain where
  phase := phase
  targetCount := 0
  totalIr := 0
  capture := []
  profileConflict := false
  settings := ⟨8, true⟩
  op := none
  queue := []
  parks := []

/-- A line record's power-on value (R156). -/
def EventLine.powerOn : EventLine where
  taken := .unsettled
  candidate := none
  binding := none
  polarity := .assertHigh
  mode := .assertOnly
  flag := false

/-- The part right after POWER_ON, in its internal reset (R186, log entry 4): every table at its power-on value
(R2, R27, R51, R75, R99, R130, R156, R164). The straps are not sampled yet: 0, which gives the base divisor
120, and every chain DISABLED (log entry 5). -/
def State.reset : State where
  power := .internalReset
  resetLow := false
  straps := ⟨0#2, 0#4⟩
  tickRunning := false
  links := Vector.replicate 4 (Hlu.powerOn 120)
  sessions := Vector.replicate 4 none
  slots := Vector.replicate 32 ⟨1, none⟩
  profiles := []
  jobs := Vector.replicate 16 ⟨1, none⟩
  chains := Vector.replicate 4 (Chain.powerOn .disabled)
  lines := Vector.replicate 8 EventLine.powerOn
  pending := []

end Sys2Proof.Machine
end

