-- ==== Sys2Proof/Machine/Bits.lean ====
section
/-! DEFINITION. Byte order, bit order and the frame check: multi-byte fields most significant byte first and
scan data least significant bit first (00_scope.md 0.10, R184), codes of all ones (0.10), the CRC-16 (R181)
and the frame envelope (Table 10-1). -/

namespace Sys2Proof.Machine

/-- A number as a two-byte field, most significant byte first (Table 10-5). -/
def u16 (n : Nat) : List Byte :=
  [BitVec.ofNat 8 (n / 256), BitVec.ofNat 8 n]

/-- A 32-bit value as a four-byte field, most significant byte first (Table 10-5). -/
def u32 (w : Word32) : List Byte :=
  [w.extractLsb' 24 8, w.extractLsb' 16 8, w.extractLsb' 8 8, w.extractLsb' 0 8]

/-- The number a two-byte field holds. -/
def readU16 (hi lo : Byte) : Nat :=
  hi.toNat * 256 + lo.toNat

/-- The value a four-byte field holds. -/
def readU32 (b3 b2 b1 b0 : Byte) : Word32 :=
  b3 ++ b2 ++ b1 ++ b0

/-- The low `n` bits of a code, bit 0 first: the order in which a register is shifted (R104). -/
def bitsOf (n : Nat) (w : Word32) : List Bool :=
  (List.range n).map w.getLsbD

/-- The number whose bit 0 is the first bit of the list. -/
def natOfBits : List Bool → Nat
  | [] => 0
  | b :: rest => b.toNat + 2 * natOfBits rest

/-- The 32-bit value whose bit 0 is the first bit of the list (R32, R107). -/
def wordOfBits (bits : List Bool) : Word32 :=
  BitVec.ofNat 32 (natOfBits bits)

/-- The code of all ones of an IR length (0.10, R12). -/
def onesCode (len : Nat) : Word32 :=
  BitVec.ofNat 32 (2 ^ len - 1)

/-- The code is less than 2 raised to the IR length (R13). -/
def codeFits (len : Nat) (code : Word32) : Bool :=
  decide (code.toNat < 2 ^ len)

/-- The number of bytes that hold `n` scan bits (R184). -/
def byteCount (n : Nat) : Nat :=
  (n + 7) / 8

/-- Scan data packed into bytes: scan bit k in bit (k mod 8) of byte (k div 8), high bits of the last byte 0
(R184). -/
def packBits (bits : List Bool) : List Byte :=
  (List.range (byteCount bits.length)).map fun k =>
    BitVec.ofNat 8 (natOfBits ((bits.drop (8 * k)).take 8))

/-- The first `n` scan bits of packed bytes; bits of the last byte above them are ignored (R81, R184). -/
def unpackBits (n : Nat) (bytes : List Byte) : List Bool :=
  (List.range n).map fun k => (bytes.getD (k / 8) 0#8).getLsbD (k % 8)

/-- One incoming bit of the CRC-16 (R181). -/
def crcBit (reg : BitVec 16) (bit : Bool) : BitVec 16 :=
  if reg.msb ^^ bit then (reg <<< 1) ^^^ 0x1021#16 else reg <<< 1

/-- One byte of the CRC-16, most significant bit first (R181). -/
def crcByte (reg : BitVec 16) (b : Byte) : BitVec 16 :=
  [7, 6, 5, 4, 3, 2, 1, 0].foldl (fun r k => crcBit r (b.getLsbD k)) reg

/-- The CRC-16 of bytes in the order they are sent (R181). -/
def crc16 (bytes : List Byte) : BitVec 16 :=
  bytes.foldl crcByte 0xFFFF#16

/-- The two check bytes of a frame, high byte first (R181). -/
def checkBytes (len : Byte) (body : List Byte) : List Byte :=
  [(crc16 (len :: body)).extractLsb' 8 8, (crc16 (len :: body)).extractLsb' 0 8]

/-- The frame of a body: sync, length, body and check (Table 10-1, R176). -/
def frameOf (body : List Byte) : List Byte :=
  Config.sync :: BitVec.ofNat 8 body.length ::
    (body ++ checkBytes (BitVec.ofNat 8 body.length) body)

/-- Cut a bit list into consecutive segments of the given lengths (R40, R104). -/
def cutBits : List Nat → List Bool → List (List Bool)
  | [], _ => []
  | n :: rest, bits => bits.take n :: cutBits rest (bits.drop n)

/-- The instruction capture signature: the segment's bit 0 is 1 and its bit 1 is 0 (R40, R110). -/
def signatureOk : List Bool → Bool
  | true :: false :: _ => true
  | _ => false

end Sys2Proof.Machine
end

