-- ==== Sys2Proof/Machine/Ops.lean ====
section
/-! DEFINITION. Reads and writes of the state's tables, each in one place. A bulk update (`mapJobs`, …) rewrites
every element of a table from its index and its old value. -/

namespace Sys2Proof.Machine

/-- What a command answers. -/
abbrev Result : Type :=
  Host.Outcome State Fault Refusal

/-- The part operates and RESET_N is not asserted: requests, frames, grants, completions, expiries and samples
are taken only then (R186, R188). -/
def State.live (s : State) : Bool :=
  decide (s.power = .operating) && !s.resetLow

/-- The base divisor the BAUDSEL straps select (R165). -/
def Straps.baseDivisor (x : Straps) : Nat :=
  if x.baudsel = 0#2 then 120
  else if x.baudsel = 1#2 then 30
  else if x.baudsel = 2#2 then 10
  else 5

/-- The base divisor of all four links (R165). -/
def State.baseDivisor (s : State) : Nat :=
  Straps.baseDivisor s.straps

/-- The base format: no parity, 1 stop bit, the base divisor (R165). -/
def State.baseFormat (s : State) : LinkFormat :=
  ⟨s.baseDivisor, .none, .one⟩

/-- Rewrite one link's HLU. -/
def State.updLink (s : State) (l : LinkId) (f : Hlu → Hlu) : State :=
  { s with links := s.links.set l (f s.links[l]) }

/-- Rewrite every link's HLU. -/
def State.mapLinks (s : State) (f : LinkId → Hlu → Hlu) : State :=
  { s with links := Vector.ofFn fun l => f l s.links[l] }

/-- Replace one session: `none` is CLOSED. -/
def State.setSession (s : State) (l : SessionId) (x : Option Session) : State :=
  { s with sessions := s.sessions.set l x }

/-- Rewrite every OPEN session. -/
def State.mapSessions (s : State) (f : SessionId → Session → Session) : State :=
  { s with sessions := Vector.ofFn fun l => (s.sessions[l]).map (f l) }

/-- Rewrite every record slot. -/
def State.mapSlots (s : State) (f : SlotId → RecordSlot → RecordSlot) : State :=
  { s with slots := Vector.ofFn fun i => f i s.slots[i] }

/-- Rewrite every live record, its slot and generation kept. -/
def State.mapRecords (s : State) (f : SlotId → TargetRecord → TargetRecord) : State :=
  s.mapSlots fun i x => { x with record := x.record.map (f i) }

/-- Rewrite the live record of one slot. -/
def State.updRecord (s : State) (i : SlotId) (f : TargetRecord → TargetRecord) : State :=
  { s with slots := s.slots.set i { s.slots[i] with record := (s.slots[i]).record.map f } }

/-- Rewrite every job slot. -/
def State.mapJobs (s : State) (f : JobId → JobSlot → JobSlot) : State :=
  { s with jobs := Vector.ofFn fun j => f j s.jobs[j] }

/-- Replace the job of one slot, its generation kept. -/
def State.setJob (s : State) (j : JobId) (x : Job) : State :=
  { s with jobs := s.jobs.set j { s.jobs[j] with job := some x } }

/-- Rewrite one Chain Controller. -/
def State.updChain (s : State) (c : ChainId) (f : Chain → Chain) : State :=
  { s with chains := s.chains.set c (f s.chains[c]) }

/-- Rewrite every Chain Controller. -/
def State.mapChains (s : State) (f : ChainId → Chain → Chain) : State :=
  { s with chains := Vector.ofFn fun c => f c s.chains[c] }

/-- Rewrite every event line. -/
def State.mapLines (s : State) (f : LineId → EventLine → EventLine) : State :=
  { s with lines := Vector.ofFn fun e => f e s.lines[e] }

/-- A chain begins a chain operation: it takes the TCK settings then in force (R50). -/
def Chain.beginOp (x : Chain) : Chain :=
  { x with op := some x.settings }

/-- Bit n of a chain set stands for chain Cn (Table 10-5). -/
def chainMember (w : BitVec 4) (c : ChainId) : Bool :=
  w.getLsbD c

/-- A chain joins a chain set (R146). -/
def chainInsert (w : BitVec 4) (c : ChainId) : BitVec 4 :=
  w ||| (1#4 <<< c.val)

/-- A chain leaves a chain set (R21, R146). -/
def chainErase (w : BitVec 4) (c : ChainId) : BitVec 4 :=
  w &&& ~~~(1#4 <<< c.val)

/-- The chain a chain number names: none above 3 (R20). -/
def chainOf (b : Byte) : Option ChainId :=
  if h : b.toNat < 4 then some ⟨b.toNat, h⟩ else none

end Sys2Proof.Machine
end

