-- ==== Sys2Proof/Machine/Directory.lean ====
section
/-! DEFINITION. The Target Directory's shared operations: handles and order (R3 to R6), catalogue, class and
resident (R12 to R15), ownership and telling (R56, R145), bindings (R17, R156), release (R59, R60, R66) and
retirement (R18). -/

namespace Sys2Proof.Machine

/-! ### Handles and order -/

/-- The handle that a slot's generation and number make (R3). -/
def State.handleOf (s : State) (i : SlotId) : Handle :=
  (s.slots[i]).generation * 32 + i.val

/-- The slot of the record a handle names: its slot is live and the generations are equal (R3). -/
def State.resolve (s : State) (h : Handle) : Option SlotId :=
  let i : SlotId := Fin.ofNat 32 h
  if (s.slots[i]).record.isSome && decide ((s.slots[i]).generation = h / 32) then some i else none

/-- The record a handle names, with its slot. -/
def State.named (s : State) (h : Handle) : Option (SlotId × TargetRecord) :=
  (s.resolve h).bind fun i => (s.slots[i]).record.map fun r => (i, r)

/-- The live record at a position of a chain, with its slot (R5). -/
def State.recordAt (s : State) (c : ChainId) (p : Fin 16) : Option (SlotId × TargetRecord) :=
  (List.finRange 32).findSome? fun i =>
    (s.slots[i]).record.bind fun r =>
      if r.chain = c && r.position = p then some (i, r) else none

/-- The live records of a chain in ascending position (R6). -/
def State.chainRecords (s : State) (c : ChainId) : List (SlotId × TargetRecord) :=
  (List.finRange 16).filterMap (s.recordAt c)

/-- The live records in directory order: by chain, then by position (R6). -/
def State.directory (s : State) : List (SlotId × TargetRecord) :=
  (List.finRange 4).flatMap s.chainRecords

/-- Whether some live record fits a test. -/
def State.anyRecord (s : State) (p : SlotId → TargetRecord → Bool) : Bool :=
  (List.finRange 32).any fun i =>
    match (s.slots[i]).record with
    | some r => p i r
    | none => false

/-! ### Fields of a record -/

/-- The owner of a record, when it has one (R9). -/
def RecordState.owner : RecordState → Option SessionId
  | .available => none
  | .claimed o => some o
  | .releasing => none
  | .suspect o => o

/-- The IR length, when it is known (R11). -/
def Shape.length : Shape → Option Nat
  | .unknown => none
  | .known n _ => some n

/-- The IR length of a record, when it is known (R11). -/
def TargetRecord.irLength (r : TargetRecord) : Option Nat :=
  r.shape.length

/-- Catalogue entry 0, BYPASS: all ones of the IR length, reported as 0 while the length is absent; DR length 1;
INERT (R12). -/
def TargetRecord.bypass (r : TargetRecord) : CatEntry :=
  ⟨(r.irLength.map onesCode).getD 0#32, 1, .inert⟩

/-- The catalogue entry at an index 0 to 7, when it is present (R12, R13). -/
def TargetRecord.entry (r : TargetRecord) (i : Fin 8) : Option CatEntry :=
  if h : i.val = 0 then some r.bypass else r.entries[i.val - 1]

/-- The resident class (R14, R15): RESET_DEFAULT and entry 0 are INERT, UNKNOWN has none. -/
def TargetRecord.residentClass (r : TargetRecord) : Option InstrClass :=
  match r.resident with
  | .resetDefault => some .inert
  | .index i => (r.entry i).map (·.cls)
  | .unknown => none

/-- The resident class is INERT. -/
def TargetRecord.inert (r : TargetRecord) : Bool :=
  decide (r.residentClass = some .inert)

/-- The resident class is HELD. -/
def TargetRecord.held (r : TargetRecord) : Bool :=
  decide (r.residentClass = some .held)

/-- The DR length of the resident instruction (R15): UNKNOWN has none. -/
def TargetRecord.drLength (r : TargetRecord) : Option Nat :=
  match r.resident with
  | .resetDefault => some (if r.identity.isSome then 32 else 1)
  | .index i => (r.entry i).map (·.drLength)
  | .unknown => none

/-- The next generation of a record slot: 2047 gives 1 (R2). -/
def nextSlotGeneration (g : Nat) : Nat :=
  if g = Config.maxSlotGeneration then 1 else g + 1

/-! ### Owners, watchers and telling -/

/-- The session owns the record. -/
def TargetRecord.ownedBy (r : TargetRecord) (l : SessionId) : Bool :=
  decide (r.state.owner = some l)

/-- The session owns a live record of the chain. -/
def State.ownsOn (s : State) (l : SessionId) (c : ChainId) : Bool :=
  s.anyRecord fun _ r => decide (r.chain = c) && r.ownedBy l

/-- Some live record of the chain is owned by a session other than this one (R46, R49, R82). -/
def State.othersOwn (s : State) (l : SessionId) (c : ChainId) : Bool :=
  s.anyRecord fun _ r =>
    decide (r.chain = c) && r.state.owner.isSome && !r.ownedBy l

/-- A session is told of a chain: the chain joins its changed set (R145, R146). -/
def Session.tell (c : ChainId) (x : Session) : Session :=
  { x with changed := chainInsert x.changed c }

/-- Every session watching the chain is told of it (R36, R42, R43). -/
def State.tellWatchers (s : State) (c : ChainId) : State :=
  s.mapSessions fun _ x => if chainMember x.watch c then x.tell c else x

/-- Every session watching the chain or owning a live record of it is told of it (R18, R47, R118, R145). -/
def State.tellParties (s : State) (c : ChainId) : State :=
  s.mapSessions fun l x => if chainMember x.watch c || s.ownsOn l c then x.tell c else x

/-! ### Event bindings -/

/-- A line becomes unbound: binding, polarity, report mode and flag return to their unbound values, the taken
level and the candidate are kept (R156, R160). -/
def EventLine.unbind (x : EventLine) : EventLine :=
  { x with binding := none, polarity := .assertHigh, mode := .assertOnly, flag := false }

/-- The line a record is bound to (R17): the line whose binding is the record's handle. -/
def State.lineOf (s : State) (h : Handle) : Option LineId :=
  (List.finRange 8).find? fun e => decide ((s.lines[e]).binding = some h)

/-- The record a line is bound to. -/
def State.boundRecord (s : State) (e : LineId) : Option TargetRecord :=
  (s.lines[e]).binding.bind fun h => (s.named h).map (·.2)

/-! ### Release and retirement -/

/-- The handle a job names: IR and DR jobs name a record, CHAIN_RESET jobs none (R74). -/
def JobKind.target : JobKind → Option Handle
  | .ir h _ => some h
  | .dr h _ => some h
  | .chainReset => none

/-- The job is QUEUED. -/
def Job.isQueued (x : Job) : Bool :=
  match x.status with
  | .queued _ => true
  | .running => false
  | .done _ _ => false

/-- The job is RUNNING. -/
def Job.isRunning (x : Job) : Bool :=
  decide (x.status = .running)

/-- The job is DONE. -/
def Job.isDone (x : Job) : Bool :=
  match x.status with
  | .queued _ => false
  | .running => false
  | .done _ _ => true

/-- Whether some job fits a test. -/
def State.anyJob (s : State) (p : JobId → Job → Bool) : Bool :=
  (List.finRange 16).any fun j =>
    match (s.jobs[j]).job with
    | some x => p j x
    | none => false

/-- A job of the record with this handle is RUNNING, an orphan too (R60, R66). -/
def State.runningFor (s : State) (h : Handle) : Bool :=
  s.anyJob fun _ x => x.isRunning && decide (x.kind.target = some h)

/-- A job naming the record with this handle is QUEUED or RUNNING (R68). -/
def State.busyFor (s : State) (h : Handle) : Bool :=
  s.anyJob fun _ x => !x.isDone && decide (x.kind.target = some h)

/-- What the end of a claim makes of a record (R59, R60, R66): SUSPECT stays SUSPECT without owner; a RUNNING
job or a HELD resident leads to RELEASING; otherwise AVAILABLE. -/
def State.releasedState (s : State) (i : SlotId) (r : TargetRecord) : RecordState :=
  match r.state with
  | .suspect _ => .suspect none
  | _ => if s.runningFor (s.handleOf i) || r.held then .releasing else .available

/-- The end of a claim queues a park: the record is not SUSPECT, no job of it runs and its resident is HELD
(R60 step 3). -/
def State.parksOnRelease (s : State) (i : SlotId) (r : TargetRecord) : Bool :=
  match r.state with
  | .suspect _ => false
  | _ => !s.runningFor (s.handleOf i) && r.held

/-- End the claims on the records that fit the test, in one action; park entries join their chains' lists in
ascending position (R60 steps 2 to 4, R63, R66). -/
def State.releaseRecords (s : State) (p : SlotId → TargetRecord → Bool) : State :=
  (s.mapRecords fun i r => if p i r then { r with state := s.releasedState i r } else r).mapChains
    fun c x =>
      { x with
        parks := x.parks ++
          ((s.chainRecords c).filter fun ir => p ir.1 ir.2 && s.parksOnRelease ir.1 ir.2).map
            fun ir => s.handleOf ir.1 }

/-- Retire every live record of a chain: the slot becomes FREE with the next generation, the record's fields go,
its line becomes unbound (R18). The telling is `tellParties` before it. -/
def State.retire (s : State) (c : ChainId) : State :=
  (s.mapSlots fun _ x =>
    match x.record with
    | some r => if r.chain = c then ⟨nextSlotGeneration x.generation, none⟩ else x
    | none => x).mapLines fun e x =>
      match s.boundRecord e with
      | some r => if r.chain = c then x.unbind else x
      | none => x

end Sys2Proof.Machine
end

