-- ==== Sys2Proof/Machine/Jobs.lean ====
section
/-! DEFINITION. The Job Table's shared operations: tickets (R75, R76), freeing (R78), finishing (R91, R92) and
the limits on jobs held (R77). -/

namespace Sys2Proof.Machine

/-- The ticket of a job slot's job (R75). -/
def State.ticketOf (s : State) (j : JobId) : Nat :=
  (s.jobs[j]).generation * 16 + j.val

/-- The job a ticket names for a session: the slot is not FREE, the generations are equal and the job's session
is the caller (R76). -/
def State.ticketed (s : State) (l : SessionId) (t : Nat) : Option (JobId × Job) :=
  let j : JobId := Fin.ofNat 16 t
  match (s.jobs[j]).job with
  | some x =>
    if decide ((s.jobs[j]).generation = t / 16) && decide (x.session = some l) then some (j, x) else none
  | none => none

/-- The next generation of a job slot: 15 gives 1 (R75). -/
def nextJobGeneration (g : Nat) : Nat :=
  if g = Config.maxJobGeneration then 1 else g + 1

/-- A job slot freed: FREE, its record discarded, its generation incremented (R78). -/
def JobSlot.freed (x : JobSlot) : JobSlot :=
  ⟨nextJobGeneration x.generation, none⟩

/-- The slot holds a job that fits the test. -/
def State.jobFits (s : State) (p : JobId → Job → Bool) (j : JobId) : Bool :=
  match (s.jobs[j]).job with
  | some x => p j x
  | none => false

/-- Free every job that fits the test: its slot becomes FREE and it leaves its chain queue (R78). -/
def State.freeJobs (s : State) (p : JobId → Job → Bool) : State :=
  (s.mapJobs fun j x => if s.jobFits p j then x.freed else x).mapChains fun _ x =>
    { x with queue := x.queue.filter fun j => !s.jobFits p j }

/-- A job slot whose job finishes: DONE with outcome and data, or freed when it is an orphan (R91, R92). -/
def JobSlot.finished (o : JobOutcome) (data : List Bool) (x : JobSlot) : JobSlot :=
  match x.job with
  | some y =>
    if y.session.isSome then { x with job := some { y with status := .done o data } } else x.freed
  | none => x

/-- One job finishes and leaves the chain's queue (R87, R90, R91). -/
def State.finishJob (s : State) (c : ChainId) (j : JobId) (o : JobOutcome) (data : List Bool) : State :=
  { s with jobs := s.jobs.set j ((s.jobs[j]).finished o data) }.updChain c fun x =>
    { x with queue := x.queue.filter fun k => k ≠ j }

/-- Every job of a chain's queue, the running one included, finishes with CHAIN_FAULT and the queue is left
empty (R92). -/
def State.failQueue (s : State) (c : ChainId) : State :=
  (s.mapJobs fun j x => if j ∈ (s.chains[c]).queue then x.finished .chainFault [] else x).updChain c
    fun x => { x with queue := [] }

/-- The jobs a session holds: those whose session field is that session (R77). -/
def State.jobsHeld (s : State) (l : SessionId) : Nat :=
  ((List.finRange 16).filter (s.jobFits fun _ x => decide (x.session = some l))).length

/-- The lowest-numbered FREE job slot (R75, R79). -/
def State.freeJobSlot (s : State) : Option JobId :=
  (List.finRange 16).find? fun j => (s.jobs[j]).job.isNone

/-- A job is accepted into a slot: QUEUED with its wait timer started, at the end of its chain's queue (R79). -/
def State.enterJob (s : State) (j : JobId) (l : SessionId) (c : ChainId) (kind : JobKind)
    (idle wait : Nat) : State :=
  (s.setJob j
    { session := some l, kind := kind, chain := c, idle := idle, waitLimit := wait,
      status := .queued (if wait = 0 then none else some 0) }).updChain c
    fun x => { x with queue := x.queue ++ [j] }

end Sys2Proof.Machine
end

