-- ==== Sys2Proof/Machine/Flags.lean ====
section
/-! DEFINITION. The flags a host sees: the latched cause set of a link (R174), the four notice kinds and their
priority (R148), the notice byte (R149), and the transitions that queue a NOTICE (R150, R151). -/

namespace Sys2Proof.Machine

/-- The causes of the latched cause set (R164), in the order of the bits of Table 10-5. -/
inductive Cause where
  | parity
  | framing
  | overrun
  | length
  | check
  | gap
  | break
  deriving DecidableEq, Repr

/-- The cause's bit of the link cause set (Table 10-5). -/
def Cause.bit : Cause → Nat
  | .parity => 0
  | .framing => 1
  | .overrun => 2
  | .length => 3
  | .check => 4
  | .gap => 5
  | .break => 6

/-- A cause is latched; one already in the set leaves it as it is (R174). -/
def Hlu.latch (x : Hlu) (k : Cause) : Hlu :=
  { x with causes := x.causes ||| (1#7 <<< k.bit) }

/-- The notice kinds in priority order, highest first (R148). -/
inductive NoticeKind where
  | linkFault
  | jobDone
  | targetEvent
  | directoryChange
  deriving DecidableEq, Repr

/-- The notice code of a kind (Table 10-5). -/
def NoticeKind.code : NoticeKind → Byte
  | .linkFault => 1#8
  | .jobDone => 2#8
  | .targetEvent => 3#8
  | .directoryChange => 4#8

/-- The kinds, highest priority first (R148). -/
def NoticeKind.all : List NoticeKind :=
  [.linkFault, .jobDone, .targetEvent, .directoryChange]

/-- The condition of each kind for a session, read from the state that owns it (R148). -/
def State.pends (s : State) (l : SessionId) : NoticeKind → Bool
  | .linkFault => decide ((s.links[l]).causes ≠ 0#7)
  | .jobDone => s.anyJob fun _ x => x.isDone && decide (x.session = some l)
  | .targetEvent =>
    (List.finRange 8).any fun e =>
      (s.lines[e]).flag && (match s.boundRecord e with
        | some r => r.ownedBy l
        | none => false)
  | .directoryChange =>
    match s.sessions[l] with
    | some x => decide (x.changed ≠ 0#4)
    | none => false

/-- The highest-priority kind pending (R149, R153). -/
def State.topNotice (s : State) (l : SessionId) : Option NoticeKind :=
  NoticeKind.all.find? (s.pends l)

/-- The notice byte: the code of the highest kind pending, or NONE; for a CLOSED session LINK_FAULT or NONE
(R132, R149). -/
def State.noticeByte (s : State) (l : SessionId) : Byte :=
  match s.sessions[l] with
  | some _ => ((s.topNotice l).map NoticeKind.code).getD 0#8
  | none => if s.pends l .linkFault then NoticeKind.code .linkFault else 0#8

/-- Some kind passes from not pending to pending for a session that is OPEN throughout the event (R150). -/
def transition (before after : State) (l : SessionId) : Bool :=
  (before.sessions[l]).isSome &&
    NoticeKind.all.any fun k => after.pends l k && !before.pends l k

/-- The NOTICE frames that an event queues: one on the link of each OPEN session with push on that made a
transition to pending; a NOTICE already queued stays the only one (R150, R151). -/
def settle (before after : State) : State :=
  after.mapLinks fun l x =>
    match after.sessions[l] with
    | some y => if y.push && transition before after l then { x with queuedNotice := true } else x
    | none => x

end Sys2Proof.Machine
end

