-- ==== Sys2Proof/Machine/Operands.lean ====
section
/-! DEFINITION. The operand forms: command and outcome codes (Tables 10-3, 10-4), field encodings (Table 10-5),
parameter lengths (R183, Table 10-6), and the fields of the variable layouts (10.4). -/

namespace Sys2Proof.Machine

/-! ### Codes -/

/-- The requests of Table 10-3. -/
inductive Request where
  | openSession
  | closeSession
  | ping
  | linkFormat
  | linkStatus
  | list
  | lookup
  | find
  | describe
  | claim
  | release
  | scanIr
  | scanDr
  | chainReset
  | fetch
  | cancel
  | rescan
  | chainConfig
  | profileAdd
  | profileDrop
  | profileRead
  | bindEvent
  | unbindEvent
  | eventStatus
  deriving DecidableEq, Repr

/-- The command code of a request (Table 10-3). -/
def Request.code : Request → Byte
  | .openSession => 0x01#8
  | .closeSession => 0x02#8
  | .ping => 0x03#8
  | .linkFormat => 0x04#8
  | .linkStatus => 0x05#8
  | .list => 0x10#8
  | .lookup => 0x11#8
  | .find => 0x12#8
  | .describe => 0x13#8
  | .claim => 0x14#8
  | .release => 0x15#8
  | .scanIr => 0x20#8
  | .scanDr => 0x21#8
  | .chainReset => 0x22#8
  | .fetch => 0x23#8
  | .cancel => 0x24#8
  | .rescan => 0x30#8
  | .chainConfig => 0x31#8
  | .profileAdd => 0x40#8
  | .profileDrop => 0x41#8
  | .profileRead => 0x42#8
  | .bindEvent => 0x50#8
  | .unbindEvent => 0x51#8
  | .eventStatus => 0x52#8

/-- The requests in the order of Table 10-3. -/
def Request.all : List Request :=
  [.openSession, .closeSession, .ping, .linkFormat, .linkStatus, .list, .lookup, .find, .describe, .claim,
    .release, .scanIr, .scanDr, .chainReset, .fetch, .cancel, .rescan, .chainConfig, .profileAdd,
    .profileDrop, .profileRead, .bindEvent, .unbindEvent, .eventStatus]

/-- The request whose command code a byte is: none outside Table 10-3 (R131, R182). -/
def Request.ofByte (b : Byte) : Option Request :=
  Request.all.find? fun r => decide (r.code = b)

/-- The reply code: the command code plus 80h, FFh for a command code outside the table (R182). -/
def replyCode : Option Request → Byte
  | some r => r.code + 0x80#8
  | none => Config.unknownReplyCode

/-- The requests executed without a session (R132). -/
def Request.sessionless : Request → Bool
  | .openSession => true
  | .ping => true
  | .linkFormat => true
  | .linkStatus => true
  | _ => false

/-- The outcomes of Table 10-4. -/
inductive OutcomeCode where
  | ok
  | accepted
  | badRequest
  | noSession
  | alreadyOpen
  | badHandle
  | badTicket
  | notOwner
  | claimed
  | releasing
  | notDescribed
  | badLength
  | badEntry
  | resident
  | noJobSlot
  | jobLimit
  | chainDisabled
  | chainNotReady
  | chainBusy
  | chainFault
  | notDone
  | inProgress
  | tooLate
  | tableFull
  | duplicate
  | lineBound
  | badLine
  deriving DecidableEq, Repr

/-- The outcome code's byte (Table 10-4). -/
def OutcomeCode.byte : OutcomeCode → Byte
  | .ok => 0x00#8
  | .accepted => 0x01#8
  | .badRequest => 0x02#8
  | .noSession => 0x03#8
  | .alreadyOpen => 0x04#8
  | .badHandle => 0x05#8
  | .badTicket => 0x06#8
  | .notOwner => 0x07#8
  | .claimed => 0x08#8
  | .releasing => 0x09#8
  | .notDescribed => 0x0A#8
  | .badLength => 0x0B#8
  | .badEntry => 0x0C#8
  | .resident => 0x0D#8
  | .noJobSlot => 0x0E#8
  | .jobLimit => 0x0F#8
  | .chainDisabled => 0x10#8
  | .chainNotReady => 0x11#8
  | .chainBusy => 0x12#8
  | .chainFault => 0x13#8
  | .notDone => 0x14#8
  | .inProgress => 0x15#8
  | .tooLate => 0x16#8
  | .tableFull => 0x17#8
  | .duplicate => 0x18#8
  | .lineBound => 0x19#8
  | .badLine => 0x1A#8

/-! ### Field encodings (Table 10-5) -/

/-- A small number in one byte. -/
def u8 (n : Nat) : Byte :=
  BitVec.ofNat 8 n

/-- A flag in one byte: 00h clear or off, 01h set or on. -/
def flagByte (b : Bool) : Byte :=
  if b then 1#8 else 0#8

/-- Chain state. -/
def ChainPhase.byte : ChainPhase → Byte
  | .disabled => 0#8
  | .resetting _ => 1#8
  | .enumerating _ => 2#8
  | .ready => 3#8
  | .scanning _ => 4#8
  | .fault _ => 5#8

/-- Fault cause: NONE outside FAULT (R20, R27). -/
def ChainPhase.causeByte : ChainPhase → Byte
  | .fault .check => 1#8
  | .fault .tooMany => 2#8
  | .fault .irOverflow => 3#8
  | .fault .irShort => 4#8
  | .fault .countMismatch => 5#8
  | .fault .directoryFull => 6#8
  | _ => 0#8

/-- Record state. -/
def RecordState.byte : RecordState → Byte
  | .available => 1#8
  | .claimed _ => 2#8
  | .releasing => 3#8
  | .suspect _ => 4#8

/-- Owner: FFh for none. -/
def ownerByte : Option SessionId → Byte
  | some l => u8 l.val
  | none => 0xFF#8

/-- Shape source. -/
def Shape.byte : Shape → Byte
  | .unknown => 0#8
  | .known _ .profile => 1#8
  | .known _ .host => 2#8
  | .known _ .deduced => 3#8

/-- Class. -/
def InstrClass.byte : InstrClass → Byte
  | .inert => 0#8
  | .held => 1#8

/-- The class a byte encodes. -/
def InstrClass.ofByte (b : Byte) : Option InstrClass :=
  if b = 0#8 then some .inert else if b = 1#8 then some .held else none

/-- Resident instruction. -/
def Resident.byte : Resident → Byte
  | .resetDefault => 0x80#8
  | .index i => u8 i.val
  | .unknown => 0xFF#8

/-- Job kind. -/
def JobKind.byte : JobKind → Byte
  | .ir _ _ => 0#8
  | .dr _ _ => 1#8
  | .chainReset => 2#8

/-- Job outcome. -/
def JobOutcome.byte : JobOutcome → Byte
  | .ok => 0#8
  | .timeout => 1#8
  | .chainFault => 2#8
  | .lengthMismatch => 3#8

/-- Parity. -/
def Parity.byte : Parity → Byte
  | .none => 0#8
  | .even => 1#8
  | .odd => 2#8

/-- The parity a byte encodes. -/
def Parity.ofByte (b : Byte) : Option Parity :=
  if b = 0#8 then some .none else if b = 1#8 then some .even else if b = 2#8 then some .odd else Option.none

/-- Stop bits. -/
def StopBits.byte : StopBits → Byte
  | .one => 1#8
  | .two => 2#8

/-- The stop-bit count a byte encodes. -/
def StopBits.ofByte (b : Byte) : Option StopBits :=
  if b = 1#8 then some .one else if b = 2#8 then some .two else none

/-- Push and TRST use: the setting a byte encodes. -/
def onOff (b : Byte) : Option Bool :=
  if b = 0#8 then some false else if b = 1#8 then some true else none

/-- Polarity. -/
def Polarity.byte : Polarity → Byte
  | .assertHigh => 0#8
  | .assertLow => 1#8

/-- The polarity a byte encodes. -/
def Polarity.ofByte (b : Byte) : Option Polarity :=
  if b = 0#8 then some .assertHigh else if b = 1#8 then some .assertLow else none

/-- Report mode. -/
def ReportMode.byte : ReportMode → Byte
  | .assertOnly => 0#8
  | .both => 1#8

/-- The report mode a byte encodes. -/
def ReportMode.ofByte (b : Byte) : Option ReportMode :=
  if b = 0#8 then some .assertOnly else if b = 1#8 then some .both else none

/-- Line level from the taken level and the polarity (R156, R161): 00h NOT_ASSERTED, 01h ASSERTED, 02h
UNSETTLED. -/
def EventLine.levelByte (x : EventLine) : Byte :=
  match x.taken, x.polarity with
  | .unsettled, _ => 2#8
  | .high, .assertHigh => 1#8
  | .high, .assertLow => 0#8
  | .low, .assertHigh => 0#8
  | .low, .assertLow => 1#8

/-- A catalogue entry's code, DR length and class, as seven bytes (10.4.2, 10.4.4). -/
def CatEntry.bytes (x : CatEntry) : List Byte :=
  u32 x.code ++ u16 x.drLength ++ [x.cls.byte]

/-- A link format, as four bytes (10.4.1). -/
def LinkFormat.bytes (x : LinkFormat) : List Byte :=
  u16 x.divisor ++ [x.parity.byte, x.stopBits.byte]

/-! ### The variable layouts -/

/-- One DESCRIBE edit as its nine bytes give it (10.4.2). -/
structure Edit where
  index : Nat
  action : Byte
  code : Word32
  drLength : Nat
  cls : Byte
  deriving DecidableEq, Repr

/-- The edits of a DESCRIBE, nine bytes each. -/
def editsOf : List Byte → List Edit
  | i :: a :: c3 :: c2 :: c1 :: c0 :: d1 :: d0 :: k :: rest =>
    ⟨i.toNat, a, readU32 c3 c2 c1 c0, readU16 d1 d0, k⟩ :: editsOf rest
  | _ => []

/-- A catalogue entry of PROFILE-ADD as its seven bytes give it (10.4.4). -/
structure RawEntry where
  code : Word32
  drLength : Nat
  cls : Byte
  deriving DecidableEq, Repr

/-- The catalogue entries of a PROFILE-ADD, seven bytes each. -/
def rawEntriesOf : List Byte → List RawEntry
  | c3 :: c2 :: c1 :: c0 :: d1 :: d0 :: k :: rest =>
    ⟨readU32 c3 c2 c1 c0, readU16 d1 d0, k⟩ :: rawEntriesOf rest
  | _ => []

/-! ### Parameter lengths -/

/-- The parameter length that a request's layout requires of these parameters: fixed, or computed from the
count or bit length in its leading parameters; none where that field is missing or out of the layout's range
(R183, Table 10-6). -/
def Request.paramLength (r : Request) (ps : List Byte) : Option Nat :=
  match r with
  | .closeSession => some 0
  | .ping => some 0
  | .linkStatus => some 0
  | .eventStatus => some 0
  | .list => some 1
  | .rescan => some 1
  | .fetch => some 1
  | .cancel => some 1
  | .profileDrop => some 1
  | .profileRead => some 1
  | .lookup => some 2
  | .claim => some 2
  | .release => some 2
  | .unbindEvent => some 2
  | .chainConfig => some 3
  | .linkFormat => some 4
  | .chainReset => some 5
  | .bindEvent => some 5
  | .scanIr => some 7
  | .find => some 8
  | .openSession =>
    match ps with
    | n :: _ => if 1 ≤ n.toNat ∧ n.toNat ≤ 16 then some (4 + n.toNat) else none
    | [] => none
  | .describe =>
    match ps with
    | _ :: _ :: _ :: n :: _ => if n.toNat ≤ 7 then some (4 + 9 * n.toNat) else none
    | _ => none
  | .scanDr =>
    match ps with
    | _ :: _ :: hi :: lo :: _ => some (8 + byteCount (readU16 hi lo))
    | _ => none
  | .profileAdd =>
    match ps.drop 9 with
    | n :: _ => some (10 + 7 * n.toNat)
    | [] => none

/-- The parameters have the length the request's layout requires (R183). -/
def Request.fits (r : Request) (ps : List Byte) : Bool :=
  decide (r.paramLength ps = some ps.length)

end Sys2Proof.Machine
end

