-- ==== Sys2Proof/Machine/Requests.lean ====
section
/-! DEFINITION. The session's handling of a request frame, the same for every request (R131, R132, R137, R138,
R182, R183): replay, parameter length, session requirement, execution, reply, store, hand-over to the HLU. -/

namespace Sys2Proof.Machine

/-- What the owning block answers (R131 step 4): outcome, payload, the state after the execution; for an OK
LINK-FORMAT the format it carries (R178); `quiet` for a CLOSE answered OK, whose notice byte is NONE (R135). -/
structure Answer where
  code : OutcomeCode
  payload : List Byte
  state : State
  format : Option LinkFormat := none
  quiet : Bool := false

/-- A request refused: the outcome alone, and nothing changes. -/
def State.refuse (s : State) (code : OutcomeCode) : Answer :=
  ⟨code, [], s, none, false⟩

/-- A request answered OK. -/
def State.answerOk (s : State) (payload : List Byte) : Answer :=
  ⟨.ok, payload, s, none, false⟩

/-- The reply body: reply code, sequence number, outcome, notice byte, payload (R131 step 5, R182). -/
def Answer.body (a : Answer) (l : LinkId) (r : Option Request) (seq : Byte) : List Byte :=
  replyCode r :: seq :: a.code.byte ::
    (if a.quiet then 0#8 else a.state.noticeByte l) :: a.payload

/-- The reply is handed to the HLU: the slot's frame is taken, the reply waits for the transmitter, and the
format it carries becomes the pending format (R131 step 7, R172, R178). -/
def Hlu.handReply (body : List Byte) (f : Option LinkFormat) (x : Hlu) : Hlu :=
  { x with slot := .taken, waiting := some body, pendingFormat := f }

/-- The reply of the session's replay store to this sequence number, if it is a retry (R131 step 1, R138). -/
def State.replayOf (s : State) (l : SessionId) (seq : Byte) : Option StoredReply :=
  (s.sessions[l]).bind fun x => x.stored.bind fun y => if y.seq = seq then some y else none

/-- Steps 2 to 4 of R131: parameter length, session requirement, execution by the owning block. A command code
outside the table is no request at all. -/
def State.execute (s : State) (l : SessionId) (r : Option Request) (ps : List Byte)
    (run : List Byte → State → Answer) : Answer :=
  match r with
  | none => s.refuse .badRequest
  | some q =>
    if !q.fits ps then s.refuse .badRequest
    else if (s.sessions[l]).isNone && !q.sessionless then s.refuse .noSession
    else run ps s

/-- The reply of an executed request is written to the replay store when the session is OPEN (R131 step 6,
R137). -/
def State.store (s : State) (l : SessionId) (seq : Byte) (body : List Byte) (f : Option LinkFormat) : State :=
  match s.sessions[l] with
  | some x => s.setSession l (some { x with stored := some ⟨seq, body, f⟩ })
  | none => s

/-- A request that is no retry: executed, answered, stored and handed over (R131 steps 2 to 7). -/
def State.fresh (s : State) (l : SessionId) (r : Option Request) (seq : Byte) (ps : List Byte)
    (run : List Byte → State → Answer) : State :=
  let a := s.execute l r ps run
  let body := a.body l r seq
  (a.state.store l seq body a.format).updLink l (Hlu.handReply body a.format)

/-- The session takes a frame of its request slot and handles it (R131): a retry is answered from the replay
store, anything else is executed. -/
def State.handle (s : State) (l : SessionId) (r : Option Request) (seq : Byte) (ps : List Byte)
    (run : List Byte → State → Answer) : State :=
  match s.replayOf l seq with
  | some y => s.updLink l (Hlu.handReply y.body y.format)
  | none => s.fresh l r seq ps run

/-- The command of one request row: the frame that stands untaken in the link's slot is this request (a command
code outside the table where `r` is none), and the session handles it. In any other state there is no such
frame to take and nothing changes (log entry 7). -/
def State.serve (s : State) (l : LinkId) (r : Option Request) (run : List Byte → State → Answer) : State :=
  match (s.links[l]).slot with
  | .untaken (code :: seq :: ps) =>
    if s.live && decide (Request.ofByte code = r) then settle s (s.handle l r seq ps run) else s
  | _ => s

end Sys2Proof.Machine
end

