-- ==== Sys2Proof/Machine/DirectoryRequests.lean ====
section
/-! DEFINITION. The directory requests: LIST (R20, R21), LOOKUP (R22), FIND (R23), CLAIM (R57), RELEASE (R59,
R60) and DESCRIBE (R68 to R72). -/

namespace Sys2Proof.Machine

/-- A one-byte parameter. -/
def oneByte (ps : List Byte) : Option Byte :=
  match ps with
  | [b] => some b
  | _ => none

/-- A handle parameter alone. -/
def handleParam (ps : List Byte) : Option Handle :=
  match ps with
  | [hi, lo] => some (readU16 hi lo)
  | _ => none

/-! ### LIST -/

/-- One LIST entry: handle, record state, owner, entry flags (10.4.2). -/
def State.listEntry (s : State) (ir : SlotId × TargetRecord) : List Byte :=
  u16 (s.handleOf ir.1) ++
    [ir.2.state.byte, ownerByte ir.2.state.owner,
      flagByte ir.2.irLength.isSome ||| (flagByte ir.2.identity.isSome <<< 1)]

/-- The LIST payload of a chain: the summary and one entry for each live record in ascending position (R20). -/
def State.listPayload (s : State) (c : ChainId) : List Byte :=
  let x := s.chains[c]
  [x.phase.byte, x.phase.causeByte, flagByte x.profileConflict] ++ u16 x.totalIr ++
    [u8 (s.chainRecords c).length] ++ (s.chainRecords c).flatMap s.listEntry

/-- LIST: the chain leaves the caller's changed set before the reply is built (R20, R21). -/
def runList (l : LinkId) (ps : List Byte) (s : State) : Answer :=
  match (oneByte ps).bind chainOf with
  | some c =>
    if (s.chains[c]).phase = .disabled then s.refuse .chainDisabled
    else
      (s.setSession l ((s.sessions[l]).map fun x => { x with changed := chainErase x.changed c })).answerOk
        (s.listPayload c)
  | none => s.refuse .badRequest

/-- LIST. -/
def execList (l : LinkId) (s : State) : Result :=
  .next (s.serve l (some .list) (runList l))

/-! ### LOOKUP -/

/-- The present catalogue entries in ascending index, each with its index (R22, Table 10-7). -/
def TargetRecord.catalogue (r : TargetRecord) : List (Fin 8 × CatEntry) :=
  (List.finRange 8).filterMap fun i => (r.entry i).map fun x => (i, x)

/-- The record encoding of Table 10-7 (R22). -/
def State.recordBytes (s : State) (i : SlotId) (r : TargetRecord) : List Byte :=
  let line := s.lineOf (s.handleOf i)
  u16 (s.handleOf i) ++
    [u8 r.chain.val, u8 r.position.val, r.state.byte, ownerByte r.state.owner,
      flagByte r.identity.isSome ||| (flagByte r.irLength.isSome <<< 1) ||| (flagByte line.isSome <<< 2) |||
        (flagByte (match line with
          | some e => (s.lines[e]).flag
          | none => false) <<< 3)] ++
    u32 (r.identity.getD 0#32) ++
    [u8 (r.irLength.getD 0), r.shape.byte, r.resident.byte,
      match line with
      | some e => u8 e.val
      | none => 0xFF#8,
      u8 r.catalogue.length] ++
    r.catalogue.flatMap fun ix => u8 ix.1.val :: ix.2.bytes

/-- LOOKUP (R22): changes nothing. -/
def runLookup (ps : List Byte) (s : State) : Answer :=
  match (handleParam ps).bind s.named with
  | some (i, r) => s.answerOk (s.recordBytes i r)
  | none => s.refuse .badHandle

/-- LOOKUP. -/
def execLookup (l : LinkId) (s : State) : Result :=
  .next (s.serve l (some .lookup) runLookup)

/-! ### FIND -/

/-- The record's identity code is present and agrees with the value under the mask (R23, R38). -/
def maskMatch (value mask : Word32) : Option Word32 → Bool
  | some code => decide (code &&& mask = value &&& mask)
  | none => false

/-- The handles FIND returns, in directory order (R23). -/
def State.findHandles (s : State) (value mask : Word32) : List Handle :=
  (s.directory.filter fun ir => maskMatch value mask ir.2.identity).map fun ir => s.handleOf ir.1

/-- FIND (R23): changes nothing. -/
def runFind (ps : List Byte) (s : State) : Answer :=
  match ps with
  | [v3, v2, v1, v0, m3, m2, m1, m0] =>
    let hs := s.findHandles (readU32 v3 v2 v1 v0) (readU32 m3 m2 m1 m0)
    s.answerOk (u8 hs.length :: hs.flatMap u16)
  | _ => s.refuse .badRequest

/-- FIND. -/
def execFind (l : LinkId) (s : State) : Result :=
  .next (s.serve l (some .find) runFind)

/-! ### CLAIM -/

/-- The answer that the chain's state gives before the record is looked at: CHAIN_NOT_READY in RESETTING,
CHAIN_FAULT in FAULT (R57, R68, R80, R81). -/
def ChainPhase.gate : ChainPhase → Option OutcomeCode
  | .resetting _ => some .chainNotReady
  | .fault _ => some .chainFault
  | _ => none

/-- CLAIM (R57). -/
def runClaim (l : LinkId) (ps : List Byte) (s : State) : Answer :=
  match (handleParam ps).bind s.named with
  | some (i, r) =>
    match (s.chains[r.chain]).phase.gate with
    | some code => s.refuse code
    | none =>
      match r.state with
      | .available => (s.updRecord i fun x => { x with state := .claimed l }).answerOk []
      | .claimed o => if o = l then s.answerOk [] else s.refuse .claimed
      | .releasing => s.refuse .releasing
      | .suspect _ => s.refuse .chainFault
  | none => s.refuse .badHandle

/-- CLAIM. -/
def execClaim (l : LinkId) (s : State) : Result :=
  .next (s.serve l (some .claim) (runClaim l))

/-! ### RELEASE -/

/-- RELEASE by the owner: the caller's QUEUED jobs of the record are freed, then the record is released (R59,
R60). -/
def State.releaseClaim (s : State) (l : SessionId) (i : SlotId) : State :=
  (s.freeJobs fun _ x =>
    x.isQueued && decide (x.session = some l) && decide (x.kind.target = some (s.handleOf i))).releaseRecords
    fun k _ => decide (k = i)

/-- RELEASE (R59, R60). On a SUSPECT record no job is QUEUED, so nothing is freed (R59). -/
def runRelease (l : LinkId) (ps : List Byte) (s : State) : Answer :=
  match (handleParam ps).bind s.named with
  | some (i, r) => if r.ownedBy l then (s.releaseClaim l i).answerOk [] else s.refuse .notOwner
  | none => s.refuse .badHandle

/-- RELEASE. -/
def execRelease (l : LinkId) (s : State) : Result :=
  .next (s.serve l (some .release) (runRelease l))

/-! ### DESCRIBE -/

/-- The capture-pattern check on IR lengths listed from position 0 upward: they sum to the total, and every
segment of the pattern, cut in arrival order, begins 1, 0 (R40). -/
def patternOk (total : Nat) (pattern : List Bool) (lengths : List Nat) : Bool :=
  decide (lengths.sum = total) && (cutBits lengths.reverse pattern).all signatureOk

/-- An IR length in the range of R11. -/
def irLengthInRange (n : Nat) : Bool :=
  decide (2 ≤ n) && decide (n ≤ 32)

/-- What DESCRIBE's length step writes: the record's length, and the length deduced for the chain's last
unknown record (R69, R70). -/
structure LengthPlan where
  given : Option Nat
  deduced : Option (SlotId × Nat)
  deriving DecidableEq, Repr

/-- The lengths of a chain's records by position as they would stand: `n` for slot `i`, `d` for slot `j`. -/
def lengthsWith (rs : List (SlotId × TargetRecord)) (i : SlotId) (n : Nat) (j : SlotId) (d : Nat) : List Nat :=
  rs.map fun kr => if kr.1 = i then n else if kr.1 = j then d else kr.2.irLength.getD 0

/-- DESCRIBE's length step for a record in slot `i` whose parameter byte is `n`, 0 when no length is given
(R69, R70): what to write, or none for BAD_LENGTH. -/
def State.lengthPlan (s : State) (i : SlotId) (r : TargetRecord) (n : Nat) : Option LengthPlan :=
  if n = 0 then some ⟨none, none⟩
  else
    match r.irLength with
    | some k => if k = n then some ⟨none, none⟩ else none
    | none =>
      let x := s.chains[r.chain]
      let rs := s.chainRecords r.chain
      let others := rs.filter fun kr => kr.1 ≠ i
      let sum := (others.map fun kr => kr.2.irLength.getD 0).sum + n
      if !irLengthInRange n || decide (x.totalIr < sum) then none
      else
        match others.filter fun kr => kr.2.irLength.isNone with
        | [] => if patternOk x.totalIr x.capture (lengthsWith rs i n i n) then some ⟨some n, none⟩ else none
        | [(j, _)] =>
          let d := x.totalIr - sum
          if irLengthInRange d && patternOk x.totalIr x.capture (lengthsWith rs i n j d) then
            some ⟨some n, some (j, d)⟩
          else none
        | _ => some ⟨some n, none⟩

/-- The edit list is malformed (R68 step 4). -/
def editsMalformed (es : List Edit) : Bool :=
  (es.any fun e => !(decide (1 ≤ e.index) && decide (e.index ≤ 7))) ||
    !decide (es.map (·.index)).Nodup ||
    (es.any fun e => decide (e.action = 1#8) &&
      !(decide (1 ≤ e.drLength) && decide (e.drLength ≤ Config.maxDrLength) &&
        (InstrClass.ofByte e.cls).isSome))

/-- The entry an edit sets, or nothing for a removal (10.4.2). -/
def Edit.entry (e : Edit) : Option CatEntry :=
  if e.action = 1#8 then some ⟨e.code, e.drLength, (InstrClass.ofByte e.cls).getD .inert⟩ else none

/-- Catalogue places 1 to 7 after the edits (R71, R72). -/
def editEntries (entries : Vector (Option CatEntry) 7) (es : List Edit) : Vector (Option CatEntry) 7 :=
  Vector.ofFn fun k =>
    match es.find? fun e => decide (e.index = k.val + 1) with
    | some e => e.entry
    | none => entries[k]

/-- The codes that sets give fit the IR length, are not all ones of it, and differ from the code of every other
entry that would be present (R71 step 3). -/
def editCodesOk (len : Nat) (after : Vector (Option CatEntry) 7) (es : List Edit) : Bool :=
  es.all fun e =>
    decide (e.action ≠ 1#8) ||
      (codeFits len e.code && decide (e.code ≠ onesCode len) &&
        (List.finRange 7).all fun k =>
          decide (k.val + 1 = e.index) ||
            match after[k] with
            | some y => decide (y.code ≠ e.code)
            | none => true)

/-- An edit names the index of the record's resident instruction (R71 step 2). -/
def editsResident (r : TargetRecord) (es : List Edit) : Bool :=
  match r.resident with
  | .index i => es.any fun e => decide (e.index = i.val)
  | _ => false

/-- The catalogue checks, against the IR length as it would stand (R71): the outcome that refuses, if one
does. -/
def editsRefused (r : TargetRecord) (len : Option Nat) (es : List Edit) : Option OutcomeCode :=
  match es with
  | [] => none
  | _ :: _ =>
    match len with
    | none => some .notDescribed
    | some n =>
      if editsResident r es then some .resident
      else if editCodesOk n (editEntries r.entries es) es then none
      else some .badEntry

/-- Everything a DESCRIBE that passes its checks writes (R72). -/
def State.writeDescription (s : State) (i : SlotId) (p : LengthPlan) (es : List Edit) : State :=
  s.mapRecords fun k r =>
    if k = i then
      { r with
        shape := match p.given with
          | some n => .known n .host
          | none => r.shape
        entries := editEntries r.entries es }
    else
      match p.deduced with
      | some (j, d) => if k = j then { r with shape := .known d .deduced } else r
      | none => r

/-- DESCRIBE's checks from R68 step 1 on, for a record the handle names: what it writes, or the outcome that
refuses it. -/
def State.describeRecord (s : State) (l : SessionId) (i : SlotId) (r : TargetRecord) (n : Nat)
    (es : List Edit) : Answer :=
  match (s.chains[r.chain]).phase.gate with
  | some code => s.refuse code
  | none =>
    if !r.ownedBy l then s.refuse .notOwner
    else if s.busyFor (s.handleOf i) then s.refuse .chainBusy
    else if editsMalformed es then s.refuse .badEntry
    else
      match s.lengthPlan i r n with
      | none => s.refuse .badLength
      | some p =>
        match editsRefused r (p.given.or r.irLength) es with
        | some code => s.refuse code
        | none => (s.writeDescription i p es).answerOk []

/-- DESCRIBE (R68): an action byte above 01h is answered BAD_REQUEST before the handle check. -/
def runDescribe (l : LinkId) (ps : List Byte) (s : State) : Answer :=
  match ps with
  | hi :: lo :: n :: _ :: rest =>
    if (editsOf rest).any fun e => decide (1 < e.action.toNat) then s.refuse .badRequest
    else
      match s.named (readU16 hi lo) with
      | some (i, r) => s.describeRecord l i r n.toNat (editsOf rest)
      | none => s.refuse .badHandle
  | _ => s.refuse .badRequest

/-- DESCRIBE. -/
def execDescribe (l : LinkId) (s : State) : Result :=
  .next (s.serve l (some .describe) (runDescribe l))

end Sys2Proof.Machine
end

