-- ==== Sys2Proof/Machine/Scans.lean ====
section
/-! DEFINITION. Scans: composition of IR scans, parks, DR scans and chain resets (R100 to R107, R123), the bits
driven and returned (R103, R104, R108), and the echo checks (R110, R111). -/

namespace Sys2Proof.Machine

/-! ### Composition -/

/-- The catalogue index whose code an IR scan shifts into a record it does not address: the resident entry, and
BYPASS where the resident is RESET_DEFAULT (R105). -/
def TargetRecord.paddingIndex (r : TargetRecord) : Fin 8 :=
  match r.resident with
  | .index i => i
  | .resetDefault => 0
  | .unknown => 0

/-- The code of a catalogue entry as it is shifted: as many bits as the IR length, bit 0 first (R104, R105). -/
def TargetRecord.codeBits (r : TargetRecord) (i : Fin 8) : List Bool :=
  bitsOf (r.irLength.getD 0) (((r.entry i).map (·.code)).getD (onesCode (r.irLength.getD 0)))

/-- The segment of an IR scan or park for a record; every segment must return the capture signature (R105,
R106). -/
def TargetRecord.irSegment (addressed : Fin 16) (x : Fin 8) (r : TargetRecord) : Segment :=
  ⟨r.codeBits (if r.position = addressed then x else r.paddingIndex), .signature⟩

/-- What the segment of a record that a DR scan does not address must return (R107). -/
def TargetRecord.drExpectation (r : TargetRecord) : Expectation :=
  match r.resident with
  | .resetDefault =>
    match r.identity with
    | some code => .exactly (bitsOf 32 code)
    | none => .exactly [false]
  | .index i => if i.val = 0 then .exactly [false] else .nothing
  | .unknown => .nothing

/-- The segment of a DR scan for a record: the job's data for the addressed one, ones for the others (R107). -/
def TargetRecord.drSegment (addressed : Fin 16) (out : List Bool) (r : TargetRecord) : Segment :=
  if r.position = addressed then ⟨out, .nothing⟩
  else ⟨List.replicate (r.drLength.getD 0) true, r.drExpectation⟩

/-- The segment table of an IR scan, position 0 first (R105, R106). -/
def State.irSegments (s : State) (c : ChainId) (addressed : Fin 16) (x : Fin 8) : List Segment :=
  (s.chainRecords c).map fun ir => ir.2.irSegment addressed x

/-- The segment table of a DR scan, position 0 first (R107). -/
def State.drSegments (s : State) (c : ChainId) (addressed : Fin 16) (out : List Bool) : List Segment :=
  (s.chainRecords c).map fun ir => ir.2.drSegment addressed out

/-- The position of the record a handle names (R101). -/
def State.positionOf (s : State) (h : Handle) : Option (Fin 16) :=
  (s.named h).map fun ir => ir.2.position

/-- The scan that a granted job is composed into, from the directory as it stands (R101, R105, R107, R123). -/
def State.jobScan (s : State) (c : ChainId) (j : JobId) (x : Job) : Scan :=
  let at_ : Handle → Fin 16 := fun h => (s.positionOf h).getD 0
  match x.kind with
  | .ir h i =>
    ⟨.job j, .ir, some (at_ h), s.irSegments c (at_ h) i, x.idle, (s.chains[c]).settings.divisor, .entry, []⟩
  | .dr h out =>
    ⟨.job j, .dr, some (at_ h), s.drSegments c (at_ h) out, x.idle, (s.chains[c]).settings.divisor, .entry, []⟩
  | .chainReset => ⟨.job j, .reset, none, [], x.idle, (s.chains[c]).settings.divisor, .entry, []⟩

/-- The scan of a park: an IR scan of entry 0 without idle count (R106). -/
def State.parkScan (s : State) (c : ChainId) (h : Handle) : Scan :=
  let p := (s.positionOf h).getD 0
  ⟨.park h, .ir, some p, s.irSegments c p 0, 0, (s.chains[c]).settings.divisor, .entry, []⟩

/-! ### Bits on the chain -/

/-- The segment lengths from position 0 upward. -/
def Scan.lengths (x : Scan) : List Nat :=
  x.segments.map fun g => g.out.length

/-- The total length T (R100). -/
def Scan.total (x : Scan) : Nat :=
  x.lengths.sum

/-- Out bits in shift order: the segment of the highest position first (R104). -/
def Scan.outBits (x : Scan) : List Bool :=
  x.segments.reverse.flatMap fun g => g.out

/-- The scan clocked to its end: every sample of SHIFT recorded in arrival order, the idle hold counted (R103,
R108, R109). -/
def Scan.clock (x : Scan) (tdi : List Bool) : Scan :=
  { x with returned := tdi, phase := .idleHold }

/-- The captured segments from position 0 upward: the returned bits cut by the offsets of R104 (R108). -/
def Scan.captured (x : Scan) : List (List Bool) :=
  (cutBits x.lengths.reverse x.returned).reverse

/-- The captured segment of the addressed position (R108). -/
def Scan.result (x : Scan) : List Bool :=
  match x.addressed with
  | some p => x.captured.getD p.val []
  | none => []

/-! ### Echo checks -/

/-- A captured segment meets its expectation (R110, R111). -/
def Expectation.met : Expectation → List Bool → Bool
  | .nothing, _ => true
  | .signature, bits => signatureOk bits
  | .exactly e, bits => decide (bits = e)

/-- The echo check over the whole of the returned bits (R110, R111, R112). -/
def Scan.echoPasses (x : Scan) : Bool :=
  (x.segments.zip x.captured).all fun gb => gb.1.expect.met gb.2

end Sys2Proof.Machine
end

