-- ==== Sys2Proof/Machine/ChainEvents.lean ====
section
/-! DEFINITION. What a READY or SCANNING chain does on its own: the arbiter's grant (R85 to R88), the completion
of a scan (R113) or its chain fault (R117), the completion of a chain reset (R124), and the return after a warm
reset (R128). -/

namespace Sys2Proof.Machine

/-! ### The arbiter -/

/-- Every live record of the chain has a known IR length (R86, IR shape). -/
def State.shapesKnown (s : State) (c : ChainId) : Bool :=
  !s.anyRecord fun _ r => decide (r.chain = c) && r.irLength.isNone

/-- Every live record of the chain other than the named one has an INERT resident class (R86, DR grant rule). -/
def State.othersInert (s : State) (c : ChainId) (h : Handle) : Bool :=
  !s.anyRecord fun i r => decide (r.chain = c) && decide (s.handleOf i ≠ h) && !r.inert

/-- A QUEUED job is grantable behind these older QUEUED jobs of its queue (R86). -/
def State.grantable (s : State) (c : ChainId) (older : List Job) (x : Job) : Bool :=
  match x.kind with
  | .ir h _ =>
    !(older.any fun y => decide (y.kind.target = some h)) &&
      !(older.any fun y => decide (y.kind = .chainReset)) && s.shapesKnown c
  | .dr h _ =>
    !(older.any fun y => decide (y.kind.target = some h)) &&
      !(older.any fun y => decide (y.kind = .chainReset)) && s.othersInert c h
  | .chainReset => older.isEmpty

/-- The oldest grantable QUEUED job of a queue, behind these older QUEUED jobs (R87 step 2). -/
def State.firstGrantable (s : State) (c : ChainId) : List Job → List JobId → Option (JobId × Job)
  | _, [] => none
  | older, j :: rest =>
    match (s.jobs[j]).job with
    | some x =>
      if x.isQueued then
        if s.grantable c older x then some (j, x) else s.firstGrantable c (older ++ [x]) rest
      else s.firstGrantable c older rest
    | none => s.firstGrantable c older rest

/-- The DR length of the resident of the record a handle names (R15, R87). -/
def State.residentDrLength (s : State) (h : Handle) : Option Nat :=
  (s.named h).bind fun ir => ir.2.drLength

/-- A selected DR job's bit length differs from its target's resident DR length (R87 step 3). -/
def State.mismatched (s : State) (x : Job) : Bool :=
  match x.kind with
  | .dr h out => decide (s.residentDrLength h ≠ some out.length)
  | _ => false

/-- The arbiter's selection from the queue, with at most `n` disposals: mismatched DR jobs become DONE with
LENGTH_MISMATCH on the way, and the job to grant is answered, if there is one (R87 steps 2 to 4). -/
def selectJob : Nat → ChainId → State → State × Option (JobId × Job)
  | 0, _, s => (s, none)
  | n + 1, c, s =>
    match s.firstGrantable c [] (s.chains[c]).queue with
    | none => (s, none)
    | some (j, x) =>
      if s.mismatched x then selectJob n c (s.finishJob c j .lengthMismatch []) else (s, some (j, x))

/-- A job is granted: RUNNING with its timer stopped, at the head of its queue, and its scan in progress at the
settings in force (R88). -/
def State.grantJob (s : State) (c : ChainId) (j : JobId) (x : Job) : State :=
  (s.setJob j { x with status := .running }).updChain c fun y =>
    Chain.beginOp
      { y with phase := .scanning (s.jobScan c j x), queue := j :: y.queue.filter fun k => k ≠ j }

/-- A park is granted: its entry leaves the park list and becomes the scan in progress (R63, R88). -/
def State.grantPark (s : State) (c : ChainId) (h : Handle) (rest : List Handle) : State :=
  s.updChain c fun y => Chain.beginOp { y with phase := .scanning (s.parkScan c h), parks := rest }

/-- One grant on a READY chain (R87): the oldest park entry, else what the selection from the queue gives. Where
no work is grantable only the disposals of the selection remain. -/
def State.grantOn (s : State) (c : ChainId) : State :=
  match (s.chains[c]).parks with
  | h :: rest => s.grantPark c h rest
  | [] =>
    match selectJob ((s.chains[c]).queue.length + 1) c s with
    | (t, some (j, x)) => t.grantJob c j x
    | (t, none) => t

/-- GRANT: the arbiter works while the chain is READY and RESET_N is not asserted (R85). -/
def execGrant (c : ChainId) (s : State) : Result :=
  .next (if s.live && decide ((s.chains[c]).phase = .ready) then settle s (s.grantOn c) else s)

/-! ### Completion of a scan -/

/-- The record an IR or DR scan is for, and the index an IR scan leaves there (R16, R105, R106). -/
def State.scanTarget (s : State) (x : Scan) : Option Handle :=
  match x.source with
  | .park h => some h
  | .job j => (s.jobs[j]).job.bind fun y => y.kind.target

/-- The catalogue index an IR scan writes: the job's, and 0 for a park (R16). -/
def State.scanIndex (s : State) (x : Scan) : Fin 8 :=
  match x.source with
  | .park _ => 0
  | .job j =>
    match (s.jobs[j]).job with
    | some y =>
      match y.kind with
      | .ir _ i => i
      | _ => 0
    | none => 0

/-- The residents that a passing IR scan or park writes: the index into the addressed record, index 0 into every
other record of the chain that held RESET_DEFAULT (R16, R105). -/
def State.writeResidents (s : State) (c : ChainId) (target : Option Handle) (i : Fin 8) : State :=
  s.mapRecords fun k r =>
    if r.chain = c then
      if target = some (s.handleOf k) then { r with resident := .index i }
      else if r.resident = .resetDefault then { r with resident := .index 0 }
      else r
    else r

/-- The release decision at the completion of a record's running job (R61): HELD appends a park, INERT makes
the record AVAILABLE. -/
def State.decideRelease (s : State) (c : ChainId) (target : Option Handle) : State :=
  match target.bind s.named with
  | some (i, r) =>
    if r.state = .releasing then
      if r.held then s.updChain c fun x => { x with parks := x.parks ++ [s.handleOf i] }
      else s.updRecord i fun y => { y with state := .available }
    else s
  | none => s

/-- The end of a park: its record passes from RELEASING to AVAILABLE (R64). -/
def State.endPark (s : State) (target : Option Handle) : State :=
  match target.bind s.named with
  | some (i, r) =>
    if r.state = .releasing then s.updRecord i fun y => { y with state := .available } else s
  | none => s

/-- The chain returns to READY, its scan in progress discarded (R91, R113). -/
def State.toReady (s : State) (c : ChainId) : State :=
  s.updChain c fun x => { x with phase := .ready, op := none }

/-- A scan whose echo check passed is completed, in one action (R113): residents, release decision or park end,
job result, chain. -/
def State.completeScan (s : State) (c : ChainId) (x : Scan) : State :=
  let target := s.scanTarget x
  let s1 := if x.kind = .ir then s.writeResidents c target (s.scanIndex x) else s
  match x.source with
  | .park _ => (s1.endPark target).toReady c
  | .job j => ((s1.decideRelease c target).finishJob c j .ok x.result).toReady c

/-- A chain fault makes every live record of the chain SUSPECT with resident UNKNOWN; owners of CLAIMED records
are kept (R19). -/
def State.suspectRecords (s : State) (c : ChainId) : State :=
  s.mapRecords fun _ r =>
    if r.chain = c then { r with state := .suspect r.state.owner, resident := .unknown } else r

/-- A chain fault with cause CHECK, declared in one action (R92, R117, R118). -/
def State.declareFault (s : State) (c : ChainId) : State :=
  (((s.failQueue c).suspectRecords c).updChain c
    fun x => { x with phase := .fault .check, op := none, parks := [] }).tellParties c

/-- SCAN_COMPLETION: the scan of a job or park on the chain has clocked all its periods, and `tdi` are the T
samples of SHIFT (R108, R109); the echo check decides between completion and chain fault (R113, R114). A scan
that has not returned T bits is not complete. -/
def execScanCompletion (c : ChainId) (tdi : List Bool) (s : State) : Result :=
  .next (match (s.chains[c]).phase with
    | .scanning x =>
      if s.live && decide (x.kind ≠ .reset) && decide (tdi.length = x.total) then
        settle s
          (if (x.clock tdi).echoPasses then s.completeScan c (x.clock tdi) else s.declareFault c)
      else s
    | _ => s)

/-! ### Test resets of a chain with records -/

/-- Every record of the chain takes RESET_DEFAULT, and RELEASING records become AVAILABLE (R16, R124, R128). -/
def State.resetRecords (s : State) (c : ChainId) : State :=
  s.mapRecords fun _ r =>
    if r.chain = c then
      { r with
        resident := .resetDefault
        state := if r.state = .releasing then .available else r.state }
    else r

/-- CHAIN_RESET_COMPLETION: a chain reset job's test reset and idle hold have ended (R124). -/
def execChainResetCompletion (c : ChainId) (s : State) : Result :=
  .next (match (s.chains[c]).phase with
    | .scanning x =>
      match x.kind, x.source with
      | .reset, .job j =>
        if s.live then
          settle s
            ((((s.resetRecords c).updChain c fun y => { y with parks := [] }).finishJob c j .ok []).toReady c)
        else s
      | _, _ => s
    | _ => s)

/-- RETURN_COMPLETION: the test reset of a RETURN completes (R128). -/
def execReturnCompletion (c : ChainId) (s : State) : Result :=
  .next (if s.live && decide ((s.chains[c]).phase = .resetting .returning) then
      settle s ((s.resetRecords c).updChain c
        fun y => { y with phase := .ready, op := none, queue := [], parks := [] })
    else s)

end Sys2Proof.Machine
end

