-- ==== Sys2Proof/Machine/ChainRequests.lean ====
section
/-! DEFINITION. The chain requests: RESCAN (R46, R47, R122) and CHAIN-CONFIG (R49, R50). -/

namespace Sys2Proof.Machine

/-- A job of the chain is QUEUED or RUNNING (R46). -/
def State.chainHasWork (s : State) (c : ChainId) : Bool :=
  s.anyJob fun _ x => !x.isDone && decide (x.chain = c)

/-- RESCAN is accepted (R46): always in FAULT; in READY when the chain is idle, its park list is empty and no
other session owns a record of it. -/
def State.rescanAllowed (s : State) (l : SessionId) (c : ChainId) : Bool :=
  match (s.chains[c]).phase with
  | .ready => !s.chainHasWork c && (s.chains[c]).parks.isEmpty && !s.othersOwn l c
  | .fault _ => true
  | _ => false

/-- A chain begins enumeration anew: its enumeration values cleared, its first test reset begun (R47). -/
def Chain.restart (x : Chain) : Chain :=
  Chain.beginOp
    { x with
      phase := .resetting .enumerate, targetCount := 0, totalIr := 0, capture := [],
      profileConflict := false }

/-- What an accepted RESCAN does, in one action (R18, R47, R122). -/
def State.rescanChain (s : State) (c : ChainId) : State :=
  ((s.tellParties c).retire c).updChain c Chain.restart

/-- RESCAN (R46). -/
def runRescan (l : LinkId) (ps : List Byte) (s : State) : Answer :=
  match (oneByte ps).bind chainOf with
  | some c =>
    if (s.chains[c]).phase = .disabled then s.refuse .chainDisabled
    else if s.rescanAllowed l c then (s.rescanChain c).answerOk []
    else s.refuse .chainBusy
  | none => s.refuse .badRequest

/-- RESCAN. -/
def execRescan (l : LinkId) (s : State) : Result :=
  .next (s.serve l (some .rescan) (runRescan l))

/-- The settings a CHAIN-CONFIG carries, when they are good: divisor 1 to 255, TRST use on or off (R49). -/
def settingsOf (d t : Byte) : Option TckSettings :=
  if d = 0#8 then none else (onOff t).map fun u => ⟨d.toNat, u⟩

/-- CHAIN-CONFIG (R49): the settings act from the chain's next operation on, the one in progress keeps its own
(R50). -/
def runChainConfig (l : LinkId) (ps : List Byte) (s : State) : Answer :=
  match ps with
  | [b, d, t] =>
    match chainOf b, settingsOf d t with
    | some c, some x =>
      match (s.chains[c]).phase with
      | .disabled => s.refuse .chainDisabled
      | .fault _ => s.refuse .chainFault
      | _ =>
        if s.othersOwn l c then s.refuse .chainBusy
        else (s.updChain c fun y => { y with settings := x }).answerOk []
    | _, _ => s.refuse .badRequest
  | _ => s.refuse .badRequest

/-- CHAIN-CONFIG. -/
def execChainConfig (l : LinkId) (s : State) : Result :=
  .next (s.serve l (some .chainConfig) (runChainConfig l))

end Sys2Proof.Machine
end

