-- ==== Sys2Proof/Machine/Enumeration.lean ====
section
/-! DEFINITION. Enumeration: the end of its test reset (R31), the identity read (R32), the instruction register
measure (R33), the bypass count (R34), and the closing action with allocation, profile matching, shape check,
deduction and finish (R7, R35 to R43). -/

namespace Sys2Proof.Machine

/-! ### Faults and steps -/

/-- An enumeration fault ends the enumeration (R36): FAULT with the cause, the enumeration values cleared,
watchers told. -/
def State.enumFault (s : State) (c : ChainId) (cause : FaultCause) : State :=
  (s.updChain c fun x =>
    { x with phase := .fault cause, op := none, targetCount := 0, totalIr := 0, capture := [] }).tellWatchers c

/-- The enumeration goes on to its next scan, which takes the settings in force when it begins (R31, R50). -/
def State.enumNext (s : State) (c : ChainId) (step : EnumStep) : State :=
  s.updChain c fun x => Chain.beginOp { x with phase := .enumerating step }

/-- TEST_RESET_COMPLETE: the test reset of RESETTING with destination ENUMERATE completes, and ID_READ begins
(R31). -/
def execTestResetComplete (c : ChainId) (s : State) : Result :=
  .next (if s.live && decide ((s.chains[c]).phase = .resetting .enumerate) then s.enumNext c .idRead else s)

/-! ### ID_READ -/

/-- The end of ID_READ: the identity codes by position when the end marker is complete, TOO_MANY when a 17th
item is, or nothing yet. -/
inductive IdEnd where
  | codes (ids : List (Option Word32))
  | tooMany
  | unfinished
  deriving DecidableEq, Repr

/-- Parse arriving bits into items, with at most `n` more target items before the 17th ends the scan (R32): the
end of the scan, and the number of bits that had arrived when shifting stopped, after `k` before these. The last
target item parsed belongs to position 0, so `acc` is the list by position. -/
def parseIds : Nat → Nat → List (Option Word32) → List Bool → IdEnd × Nat
  | 0, k, _, _ => (.tooMany, k)
  | n + 1, k, acc, bits =>
    match bits with
    | [] => (.unfinished, k)
    | false :: rest => parseIds n (k + 1) (none :: acc) rest
    | true :: rest =>
      if rest.length < 31 then (.unfinished, k)
      else if wordOfBits (bits.take 32) = 0xFFFFFFFF#32 then (.codes acc, k + 32)
      else parseIds n (k + 32) (some (wordOfBits (bits.take 32)) :: acc) (rest.drop 31)

/-- The parse of the bits arriving in ID_READ from the first on (R32). -/
def readIds (bits : List Bool) : IdEnd × Nat :=
  parseIds (Config.targetLimit + 1) 0 [] bits

/-- ID_READ stops shifting when the end marker or the 17th target item is complete (R32): the number of shifts
by then, if these bits come so far. -/
def idShifts (bits : List Bool) : Option Nat :=
  match readIds bits with
  | (.unfinished, _) => none
  | (_, k) => some k

/-- ID_READ: the identity-read scan on the chain ends by the bits that arrived on TDI_IN, the last of them the one
at which shifting stopped (R32, log entry 11). -/
def execIdRead (c : ChainId) (tdi : List Bool) (s : State) : Result :=
  .next (match (s.chains[c]).phase with
    | .enumerating .idRead =>
      if s.live && decide (idShifts tdi = some tdi.length) then
        match (readIds tdi).1 with
        | .codes ids => s.enumNext c (.irMeasure ids)
        | .tooMany => settle s (s.enumFault c .tooMany)
        | .unfinished => s
      else s
    | _ => s)

/-! ### IR_MEASURE -/

/-- The end of IR_MEASURE: total and capture pattern, no 1 at indices 512 to 1024, or nothing yet. -/
inductive MeasureEnd where
  | total (n : Nat) (pattern : List Bool)
  | overflow
  | unfinished
  deriving DecidableEq, Repr

/-- The first 1 at an index of 512 to 1024 gives the total and the pattern (R33). -/
def measureIr (bits : List Bool) : MeasureEnd :=
  match ((bits.drop Config.measureZeros).take (Config.measureZeros + 1)).findIdx? id with
  | some k => .total k (bits.take k)
  | none => if 2 * Config.measureZeros + 1 ≤ bits.length then .overflow else .unfinished

/-- IR_MEASURE stops shifting after k + 1 shifts when the first 1 at an index of 512 to 1024 arrives at index k,
and after 1025 shifts when none does (R33): the number of shifts, if these bits come so far. -/
def measureShifts (bits : List Bool) : Option Nat :=
  match measureIr bits with
  | .total n _ => some (Config.measureZeros + n + 1)
  | .overflow => some (2 * Config.measureZeros + 1)
  | .unfinished => none

/-- IR_MEASURE: the measure scan on the chain ends by the bits that arrived, the last of them the one at which
shifting stopped (R33, log entry 11). -/
def execIrMeasure (c : ChainId) (tdi : List Bool) (s : State) : Result :=
  .next (match (s.chains[c]).phase with
    | .enumerating (.irMeasure ids) =>
      if s.live && decide (measureShifts tdi = some tdi.length) then
        match measureIr tdi with
        | .total n pattern =>
          if n < 2 * ids.length then settle s (s.enumFault c .irShort)
          else s.enumNext c (.bypassCount ids n pattern)
        | .overflow => settle s (s.enumFault c .irOverflow)
        | .unfinished => s
      else s
    | _ => s)

/-! ### BYPASS_COUNT -/

/-- The end of BYPASS_COUNT for `n` targets: whether the count agrees, or nothing yet (R34). The total counts
for an empty chain. -/
def countBypass (n total : Nat) (bits : List Bool) : Option Bool :=
  match (bits.take (n + 1)).findIdx? id with
  | some k => some (decide (k = n) && (decide (n ≠ 0) || decide (total = 0)))
  | none => if n + 1 ≤ bits.length then some false else none

/-- BYPASS_COUNT for `n` targets stops shifting at the first 1, or at a 0 at index n (R34): the number of shifts,
at most n + 1, if these bits come so far. -/
def countShifts (n : Nat) (bits : List Bool) : Option Nat :=
  match (bits.take (n + 1)).findIdx? id with
  | some k => some (k + 1)
  | none => if n + 1 ≤ bits.length then some (n + 1) else none

/-- BYPASS_COUNT: the count scan on the chain ends by the bits that arrived, the last of them the one at which
shifting stopped (R34, log entry 11). -/
def execBypassCount (c : ChainId) (tdi : List Bool) (s : State) : Result :=
  .next (match (s.chains[c]).phase with
    | .enumerating (.bypassCount ids total pattern) =>
      if s.live && decide (countShifts ids.length tdi = some tdi.length) then
        match countBypass ids.length total tdi with
        | some true =>
          s.updChain c fun x => { x with phase := .enumerating (.closing ids total pattern), op := none }
        | some false => settle s (s.enumFault c .countMismatch)
        | none => s
      else s
    | _ => s)

/-- The number of shifts after which the scan of an enumeration step stops on the bits arriving on TDI_IN: none
while it goes on, and none at the closing action, which has no scan (R31 to R34). -/
def EnumStep.shifts (x : EnumStep) (tdi : List Bool) : Option Nat :=
  match x with
  | .idRead => idShifts tdi
  | .irMeasure _ => measureShifts tdi
  | .bypassCount ids _ _ => countShifts ids.length tdi
  | .closing _ _ _ => none

/-! ### Descriptions at enumeration -/

/-- What a new record's description is: its shape and its catalogue entries 1 to 7. -/
structure Description where
  shape : Shape
  entries : Vector (Option CatEntry) 7
  deriving DecidableEq, Repr

/-- No IR length, catalogue entry 0 alone (R7). -/
def Description.blank : Description :=
  ⟨.unknown, Vector.replicate 7 none⟩

/-- The first profile in table order that matches the identity code; a record without one matches none (R38). -/
def matchProfile (table : List Profile) (code : Option Word32) : Option Profile :=
  table.find? fun x => maskMatch x.value x.mask code

/-- A matching profile's proposal: its IR length and its catalogue entries as indices 1 to k (R38). -/
def Profile.proposal (x : Profile) : Description :=
  ⟨.known x.irLength .profile, Vector.ofFn fun k => x.entries[k.val]?⟩

/-- The proposed lengths' sum S (R39). -/
def proposedSum (ps : List (Option Profile)) : Nat :=
  (ps.map fun p => (p.map (·.irLength)).getD 0).sum

/-- The proposals of a chain are inconsistent (R39). -/
def proposalsConflict (ps : List (Option Profile)) (total : Nat) (pattern : List Bool) : Bool :=
  decide (total < proposedSum ps) ||
    (ps.all (·.isSome) &&
      !patternOk total pattern (ps.map fun p => (p.map (·.irLength)).getD 0))

/-- Deduction at enumeration, over the descriptions by position (R41). -/
def deduceShapes (total : Nat) (pattern : List Bool) (ds : List Description) : List Description :=
  let sum := (ds.map fun d => d.shape.length.getD 0).sum
  let rest := total - sum
  let filled := ds.map fun d => if d.shape = .unknown then { d with shape := .known rest .deduced } else d
  if decide ((ds.filter fun d => d.shape = .unknown).length = 1) && irLengthInRange rest &&
      patternOk total pattern (filled.map fun d => d.shape.length.getD 0)
  then filled else ds

/-- The descriptions of a chain's new records by position, and whether PROFILE_CONFLICT is set (R38 to R41). -/
def describeNew (table : List Profile) (ids : List (Option Word32)) (total : Nat) (pattern : List Bool) :
    List Description × Bool :=
  let ps := ids.map (matchProfile table)
  if proposalsConflict ps total pattern then
    (deduceShapes total pattern (ids.map fun _ => Description.blank), true)
  else
    (deduceShapes total pattern (ps.map fun p => (p.map Profile.proposal).getD Description.blank), false)

/-! ### The closing action -/

/-- A new record (R7). -/
def newRecord (c : ChainId) (p : Fin 16) (code : Option Word32) (d : Description) : TargetRecord where
  chain := c
  position := p
  state := .available
  identity := code
  shape := d.shape
  entries := d.entries
  resident := .index 0

/-- The FREE record slots, lowest first (R7). -/
def State.freeSlots (s : State) : List SlotId :=
  (List.finRange 32).filter fun i => (s.slots[i]).record.isNone

/-- Allocation: position p takes the p-th lowest FREE slot; generations are kept (R2, R7). -/
def State.allocate (s : State) (c : ChainId) (ids : List (Option Word32)) (ds : List Description) : State :=
  s.mapSlots fun i x =>
    match x.record with
    | some _ => x
    | none =>
      let p := s.freeSlots.idxOf i
      match ids[p]?, ds[p]? with
      | some code, some d => { x with record := some (newRecord c (Fin.ofNat 16 p) code d) }
      | _, _ => x

/-- The enumeration's end in READY (R42, R43): the values written, queue and park list empty, watchers told. -/
def State.finishEnum (s : State) (c : ChainId) (n total : Nat) (pattern : List Bool) (conflict : Bool) : State :=
  (s.updChain c fun x =>
    { x with
      phase := .ready, op := none, targetCount := n, totalIr := total, capture := pattern,
      profileConflict := conflict, queue := [], parks := [] }).tellWatchers c

/-- The closing action for an agreeing count (R35, R42, R43). -/
def State.closeEnum (s : State) (c : ChainId) (ids : List (Option Word32)) (total : Nat)
    (pattern : List Bool) : State :=
  if s.freeSlots.length < ids.length then s.enumFault c .directoryFull
  else
    let d := describeNew s.profiles ids total pattern
    (s.allocate c ids d.1).finishEnum c ids.length total pattern d.2

/-- CLOSING_ACTION, taken whole (R31, R35). -/
def execClosingAction (c : ChainId) (s : State) : Result :=
  .next (match (s.chains[c]).phase with
    | .enumerating (.closing ids total pattern) =>
      if s.live then settle s (s.closeEnum c ids total pattern) else s
    | _ => s)

end Sys2Proof.Machine
end

