-- ==== Sys2Proof/Machine/EventRequests.lean ====
section
/-! DEFINITION. The Event Monitor: BIND-EVENT (R159), UNBIND-EVENT (R160), EVENT-STATUS (R161) and the sampling
of the event lines at a tick (R157, R158), which TimerEvents.lean takes. -/

namespace Sys2Proof.Machine

/-! ### BIND-EVENT -/

/-- The line is bound to a record owned by a session other than this one (R159 step 4). -/
def State.lineTaken (s : State) (l : SessionId) (e : LineId) : Bool :=
  match s.boundRecord e with
  | some r => r.state.owner.isSome && !r.ownedBy l
  | none => false

/-- The line number a byte names: none above 7 (R159 step 3). -/
def lineNumber (b : Byte) : Option LineId :=
  if h : b.toNat < 8 then some ⟨b.toNat, h⟩ else none

/-- What an accepted BIND-EVENT does (R159): any other line of the record is unbound, the line takes the record,
polarity and mode with its flag clear; the taken level and candidate are kept. -/
def State.bindLine (s : State) (h : Handle) (e : LineId) (p : Polarity) (m : ReportMode) : State :=
  s.mapLines fun k x =>
    if k = e then { x with binding := some h, polarity := p, mode := m, flag := false }
    else if x.binding = some h then x.unbind
    else x

/-- BIND-EVENT (R159). -/
def runBindEvent (l : LinkId) (ps : List Byte) (s : State) : Answer :=
  match ps with
  | [hi, lo, b, p, m] =>
    match Polarity.ofByte p, ReportMode.ofByte m with
    | some pol, some mode =>
      match s.named (readU16 hi lo) with
      | none => s.refuse .badHandle
      | some (_, r) =>
        if !r.ownedBy l then s.refuse .notOwner
        else
          match lineNumber b with
          | none => s.refuse .badLine
          | some e =>
            if s.lineTaken l e then s.refuse .lineBound
            else (s.bindLine (readU16 hi lo) e pol mode).answerOk []
    | _, _ => s.refuse .badRequest
  | _ => s.refuse .badRequest

/-- BIND-EVENT. -/
def execBindEvent (l : LinkId) (s : State) : Result :=
  .next (s.serve l (some .bindEvent) (runBindEvent l))

/-! ### UNBIND-EVENT -/

/-- The line bound to a record becomes unbound (R160). -/
def State.unbindRecord (s : State) (h : Handle) : State :=
  s.mapLines fun _ x => if x.binding = some h then x.unbind else x

/-- UNBIND-EVENT (R160). -/
def runUnbindEvent (l : LinkId) (ps : List Byte) (s : State) : Answer :=
  match handleParam ps with
  | some h =>
    match s.named h with
    | none => s.refuse .badHandle
    | some (_, r) => if r.ownedBy l then (s.unbindRecord h).answerOk [] else s.refuse .notOwner
  | none => s.refuse .badRequest

/-- UNBIND-EVENT. -/
def execUnbindEvent (l : LinkId) (s : State) : Result :=
  .next (s.serve l (some .unbindEvent) (runUnbindEvent l))

/-! ### EVENT-STATUS -/

/-- The line is bound to a record the session owns (R161). -/
def State.reportsLine (s : State) (l : SessionId) (e : LineId) : Bool :=
  match s.boundRecord e with
  | some r => r.ownedBy l
  | none => false

/-- One EVENT-STATUS entry: line, handle, polarity, report mode, level, change flag (10.4.4). -/
def State.eventEntry (s : State) (e : LineId) : List Byte :=
  let x := s.lines[e]
  u8 e.val :: (u16 (x.binding.getD 0) ++ [x.polarity.byte, x.mode.byte, x.levelByte, flagByte x.flag])

/-- The lines EVENT-STATUS reports, in ascending line number (R161). -/
def State.reportedLines (s : State) (l : SessionId) : List LineId :=
  (List.finRange 8).filter (s.reportsLine l)

/-- EVENT-STATUS (R161): reports the lines bound to the caller's records and clears their flags. -/
def runEventStatus (l : LinkId) (_ps : List Byte) (s : State) : Answer :=
  (s.mapLines fun e x => if s.reportsLine l e then { x with flag := false } else x).answerOk
    (u8 (s.reportedLines l).length :: (s.reportedLines l).flatMap s.eventEntry)

/-- EVENT-STATUS. -/
def execEventStatus (l : LinkId) (s : State) : Result :=
  .next (s.serve l (some .eventStatus) (runEventStatus l))

/-! ### Sampling -/

/-- The taken level that a sample stands for. -/
def levelOf (sample : Bool) : TakenLevel :=
  if sample then .high else .low

/-- The new taken level makes the line asserted (R156). -/
def Polarity.asserts : Polarity → Bool → Bool
  | .assertHigh, level => level
  | .assertLow, level => !level

/-- A change to this level is reportable: the line is bound, and the mode is BOTH or the line becomes asserted
(R158). -/
def EventLine.reports (x : EventLine) (level : Bool) : Bool :=
  x.binding.isSome &&
    (match x.mode with
      | .both => true
      | .assertOnly => x.polarity.asserts level)

/-- One line's sample at a tick (R157, R158): a level is taken at the second of two consecutive agreeing
samples, the first after power-on without a change. -/
def EventLine.sample (x : EventLine) (level : Bool) : EventLine :=
  if x.taken = levelOf level then { x with candidate := none }
  else if x.candidate = some level then
    { x with
      taken := levelOf level
      candidate := none
      flag := x.flag || (decide (x.taken ≠ .unsettled) && x.reports level) }
  else { x with candidate := some level }

/-- The Event Monitor's share of a tick: every line is sampled, bit n of `pins` being line En (R157). -/
def State.sampleLines (s : State) (pins : BitVec 8) : State :=
  s.mapLines fun e x => x.sample (pins.getLsbD e)

end Sys2Proof.Machine
end

