-- ==== Sys2Proof/Machine/JobRequests.lean ====
section
/-! DEFINITION. The job requests: SCAN-IR (R80), SCAN-DR (R81), CHAIN-RESET (R82) with their acceptance (R79),
FETCH (R96) and CANCEL (R94). -/

namespace Sys2Proof.Machine

/-- The resource checks and the acceptance that every job request ends in (R79). -/
def State.accept (s : State) (l : SessionId) (c : ChainId) (kind : JobKind) (idle wait : Nat) : Answer :=
  if Config.jobLimit ≤ s.jobsHeld l then s.refuse .jobLimit
  else
    match s.freeJobSlot with
    | some j => ⟨.accepted, [u8 (s.ticketOf j)], s.enterJob j l c kind idle wait, none, false⟩
    | none => s.refuse .noJobSlot

/-! ### SCAN-IR -/

/-- SCAN-IR from the handle check on (R80 steps 2 to 6). -/
def State.scanIrOf (s : State) (l : SessionId) (h : Handle) (x : Fin 8) (idle wait : Nat) : Answer :=
  match s.named h with
  | none => s.refuse .badHandle
  | some (_, r) =>
    match (s.chains[r.chain]).phase.gate with
    | some code => s.refuse code
    | none =>
      if !r.ownedBy l then s.refuse .notOwner
      else if r.irLength.isNone then s.refuse .notDescribed
      else if (r.entry x).isNone then s.refuse .badEntry
      else s.accept l r.chain (.ir h x) idle wait

/-- SCAN-IR (R80): a catalogue index above 7 is answered BAD_REQUEST. -/
def runScanIr (l : LinkId) (ps : List Byte) (s : State) : Answer :=
  match ps with
  | [hi, lo, x, i1, i0, w1, w0] =>
    if h : x.toNat < 8 then
      s.scanIrOf l (readU16 hi lo) ⟨x.toNat, h⟩ (readU16 i1 i0) (readU16 w1 w0)
    else s.refuse .badRequest
  | _ => s.refuse .badRequest

/-- SCAN-IR. -/
def execScanIr (l : LinkId) (s : State) : Result :=
  .next (s.serve l (some .scanIr) (runScanIr l))

/-! ### SCAN-DR -/

/-- SCAN-DR's checks in order (R81): the job keeps the bit length's number of out bits and no more. -/
def State.scanDrOf (s : State) (l : SessionId) (h : Handle) (bits : Nat) (data : List Byte)
    (idle wait : Nat) : Answer :=
  match s.named h with
  | none => s.refuse .badHandle
  | some (_, r) =>
    match (s.chains[r.chain]).phase.gate with
    | some code => s.refuse code
    | none =>
      if !r.ownedBy l then s.refuse .notOwner
      else if bits = 0 ∨ Config.maxDrLength < bits then s.refuse .badLength
      else s.accept l r.chain (.dr h (unpackBits bits data)) idle wait

/-- SCAN-DR (R81). -/
def runScanDr (l : LinkId) (ps : List Byte) (s : State) : Answer :=
  match ps with
  | hi :: lo :: b1 :: b0 :: i1 :: i0 :: w1 :: w0 :: data =>
    s.scanDrOf l (readU16 hi lo) (readU16 b1 b0) data (readU16 i1 i0) (readU16 w1 w0)
  | _ => s.refuse .badRequest

/-- SCAN-DR. -/
def execScanDr (l : LinkId) (s : State) : Result :=
  .next (s.serve l (some .scanDr) (runScanDr l))

/-! ### CHAIN-RESET -/

/-- The answer CHAIN-RESET gets from the chain's state alone (R82 steps 2 to 4). -/
def ChainPhase.resetGate : ChainPhase → Option OutcomeCode
  | .disabled => some .chainDisabled
  | .resetting _ => some .chainNotReady
  | .enumerating _ => some .chainNotReady
  | .fault _ => some .chainFault
  | .ready => none
  | .scanning _ => none

/-- CHAIN-RESET (R82). -/
def runChainReset (l : LinkId) (ps : List Byte) (s : State) : Answer :=
  match ps with
  | [b, i1, i0, w1, w0] =>
    match chainOf b with
    | none => s.refuse .badRequest
    | some c =>
      match (s.chains[c]).phase.resetGate with
      | some code => s.refuse code
      | none =>
        if s.othersOwn l c then s.refuse .chainBusy
        else s.accept l c .chainReset (readU16 i1 i0) (readU16 w1 w0)
  | _ => s.refuse .badRequest

/-- CHAIN-RESET. -/
def execChainReset (l : LinkId) (s : State) : Result :=
  .next (s.serve l (some .chainReset) (runChainReset l))

/-! ### FETCH and CANCEL -/

/-- The FETCH payload of a DONE job (R96, 10.4.3): handle 0000h for a CHAIN_RESET job. -/
def fetchPayload (x : Job) (o : JobOutcome) (captured : List Bool) : List Byte :=
  [x.kind.byte, u8 x.chain.val] ++ u16 (x.kind.target.getD 0) ++ [o.byte] ++ u16 captured.length ++
    packBits captured

/-- FETCH (R76, R96): the job is freed before the reply is built. -/
def runFetch (l : LinkId) (ps : List Byte) (s : State) : Answer :=
  match (oneByte ps).bind fun t => s.ticketed l t.toNat with
  | some (j, x) =>
    match x.status with
    | .done o data => (s.freeJobs fun k _ => decide (k = j)).answerOk (fetchPayload x o data)
    | .queued _ => s.refuse .notDone
    | .running => s.refuse .notDone
  | none => s.refuse .badTicket

/-- FETCH. -/
def execFetch (l : LinkId) (s : State) : Result :=
  .next (s.serve l (some .fetch) (runFetch l))

/-- CANCEL (R76, R94). -/
def runCancel (l : LinkId) (ps : List Byte) (s : State) : Answer :=
  match (oneByte ps).bind fun t => s.ticketed l t.toNat with
  | some (j, x) =>
    match x.status with
    | .queued _ => (s.freeJobs fun k _ => decide (k = j)).answerOk []
    | .running => s.refuse .inProgress
    | .done _ _ => s.refuse .tooLate
  | none => s.refuse .badTicket

/-- CANCEL. -/
def execCancel (l : LinkId) (s : State) : Result :=
  .next (s.serve l (some .cancel) (runCancel l))

end Sys2Proof.Machine
end

