-- ==== Sys2Proof/Machine/LinkEvents.lean ====
section
/-! DEFINITION. What a Host Link Unit does on its own: the character receiver (R165 to R167), the frame
assembler (R169, R170), the gap limit (R171), the request slot (R172), the break (R168) and the transmitter
(R152, R153, R176, R178). -/

namespace Sys2Proof.Machine

/-! ### Characters -/

/-- The parity of the data bits: `true` when the number of 1s is odd. -/
def oddOnes (b : Byte) : Bool :=
  (List.range 8).foldl (fun p k => p ^^ b.getLsbD k) false

/-- The parity bit the format demands for a data byte (R165): the number of 1s among data and parity bit is even
under EVEN and odd under ODD. -/
def Parity.bitFor : Parity → Byte → Option Bool
  | .none, _ => Option.none
  | .even, b => some (oddOnes b)
  | .odd, b => some (!oddOnes b)

/-- The parity bit, if the format has one, agrees with the data (R166). -/
def Parity.agrees (p : Parity) (b : Byte) (bit : Bool) : Bool :=
  match p.bitFor b with
  | some x => decide (x = bit)
  | Option.none => true

/-- One character on a line in a format, in the order of its bits: start bit at spacing, data bits least
significant first, parity bit, stop bits at marking (R165). -/
def charBits (f : LinkFormat) (b : Byte) : List Bool :=
  false :: ((List.range 8).map b.getLsbD ++ (f.parity.bitFor b).toList ++
    match f.stopBits with
    | .one => [true]
    | .two => [true, true])

/-- What a received character is (R166, R167). A framing error leaves the receiver in the given state. -/
inductive CharEnd where
  | good (b : Byte)
  | parityError
  | framingError (after : Receiver)
  deriving DecidableEq, Repr

/-- The judgement of a character's samples in the format of its start edge (R166). A break candidate that comes
here is a framing error whose further sample read marking (R167). Whether the character is a candidate is
what its operand says (log entry 16). -/
def judgeChar (f : LinkFormat) (x : CharSamples) : CharEnd :=
  if x.stop then
    if f.parity.agrees x.data x.parity then .good x.data else .parityError
  else if x.allSpacing then .framingError .startWait
  else .framingError .markWait

/-! ### Frames -/

/-- The frame in assembly is abandoned: HUNT, gap timer stopped (R168, R170). -/
def Hlu.abandonFrame (x : Hlu) : Hlu :=
  { x with assembler := .hunt, gap := .stopped }

/-- A good frame reaches the request slot: its body enters an EMPTY slot, and is lost to OVERRUN otherwise
(R172). -/
def Hlu.placeFrame (body : List Byte) (x : Hlu) : Hlu :=
  match x.slot with
  | .empty => { x with slot := .untaken body }
  | .untaken _ => x.latch .overrun
  | .taken => x.latch .overrun

/-- The assembler goes on within a frame; the gap timer restarts at the end of the character (R169). -/
def Hlu.continueFrame (a : Assembler) (x : Hlu) : Hlu :=
  { x with assembler := a, gap := .running }

/-- The frame assembler takes a good character (R169, R170). -/
def Hlu.takeByte (b : Byte) (x : Hlu) : Hlu :=
  match x.assembler with
  | .hunt => if b = Config.sync then x.continueFrame .length else x
  | .length =>
    if 2 ≤ b.toNat ∧ b.toNat ≤ 250 then x.continueFrame (.body b [])
    else (x.latch .length).abandonFrame
  | .body len got =>
    if got.length + 1 = len.toNat then x.continueFrame (.check len (got ++ [b]) none)
    else x.continueFrame (.body len (got ++ [b]))
  | .check len got none => x.continueFrame (.check len got (some b))
  | .check len got (some high) =>
    if [high, b] = checkBytes len got then (x.abandonFrame).placeFrame got
    else (x.latch .check).abandonFrame

/-- This character completes a good frame: the keepalive timer restarts (R140, R170). -/
def Assembler.completes (b : Byte) : Assembler → Bool
  | .check len got (some high) => decide ([high, b] = checkBytes len got)
  | _ => false

/-- The link's keepalive timer restarts from 0, if it runs (R140). -/
def State.restartKeepalive (s : State) (l : SessionId) : State :=
  s.setSession l ((s.sessions[l]).map fun x => { x with timer := x.timer.map fun _ => 0 })

/-- The link takes one character in the format of its start edge (R166). -/
def State.receiveChar (s : State) (l : LinkId) (f : LinkFormat) (x : CharSamples) : State :=
  match judgeChar f x with
  | .good b =>
    let t := s.updLink l fun y => Hlu.takeByte b { y with receiver := .startWait }
    if (s.links[l]).assembler.completes b then t.restartKeepalive l else t
  | .parityError => s.updLink l fun y => ({ y with receiver := .startWait }.latch .parity).abandonFrame
  | .framingError after => s.updLink l fun y => ({ y with receiver := after }.latch .framing).abandonFrame

/-- CHARACTER_RECEIVED: the receiver in CHARACTER completes a character (R166). -/
def execCharacterReceived (l : LinkId) (x : CharSamples) (s : State) : Result :=
  .next (match (s.links[l]).receiver with
    | .character f => if s.live then settle s (s.receiveChar l f x) else s
    | _ => s)

/-! ### The receiver's other events -/

/-- LINE_AT_MARKING: the first sample at marking moves MARK_WAIT to START_WAIT (R166). -/
def execLineAtMarking (l : LinkId) (s : State) : Result :=
  .next (if s.live && decide ((s.links[l]).receiver = .markWait) then
      s.updLink l fun x => { x with receiver := .startWait }
    else s)

/-- A candidate start bit leaves open whether a running gap timer has stopped (R171). -/
def GapTimer.onStart : GapTimer → GapTimer
  | .stopped => .stopped
  | .running => .candidate
  | .candidate => .candidate
  | .overdue => .overdue

/-- The gap limit's expiry: GAP is latched and the frame in assembly is abandoned (R170, R171). -/
def Hlu.gapExpires (x : Hlu) : Hlu :=
  (x.latch .gap).abandonFrame

/-- A candidate found to be noise has not stopped the gap timer (R171): it runs on, and where its limit ended
meanwhile the gap has expired (log entry 15). -/
def Hlu.noise (x : Hlu) : Hlu :=
  match x.gap with
  | .stopped => { x with receiver := .startWait }
  | .running => { x with receiver := .startWait }
  | .candidate => { x with receiver := .startWait, gap := .running }
  | .overdue => { x with receiver := .startWait }.gapExpires

/-- The gap timer's limit ends (R171): running, the gap expires; during a candidate start bit that is left to what
the candidate proves to be (log entry 15). -/
def Hlu.gapLimit (x : Hlu) : Hlu :=
  match x.gap with
  | .stopped => x
  | .running => x.gapExpires
  | .candidate => { x with gap := .overdue }
  | .overdue => x

/-- START_BIT: a spacing sample in START_WAIT begins a candidate start bit, in the format then in force (R166,
R171). -/
def execStartBit (l : LinkId) (s : State) : Result :=
  .next (if s.live && decide ((s.links[l]).receiver = .startWait) then
      s.updLink l fun x => { x with receiver := .character x.format, gap := x.gap.onStart }
    else s)

/-- START_BIT_NOISE: the middle of the candidate start bit reads marking (R166, R171). -/
def execStartBitNoise (l : LinkId) (s : State) : Result :=
  .next (match (s.links[l]).receiver with
    | .character _ =>
      if s.live then settle s (s.updLink l Hlu.noise) else s
    | _ => s)

/-- GAP_EXPIRY: 16 character times have passed within a frame (R171). -/
def execGapExpiry (l : LinkId) (s : State) : Result :=
  .next (if s.live && decide ((s.links[l]).assembler ≠ .hunt) then settle s (s.updLink l Hlu.gapLimit) else s)

/-- The link reset of a break, in the order of R168: frame in assembly, slot and reply, NOTICE frames, format;
then BREAK is latched, and the receiver enters MARK_WAIT (R167). -/
def Hlu.breakReset (base : LinkFormat) (x : Hlu) : Hlu :=
  { x.abandonFrame with
    slot := .empty, waiting := none, tx := .idle, queuedNotice := false, pendingFormat := none,
    format := base, receiver := .markWait }.latch .break

/-- BREAK: a break is taken at the further sample of a break candidate (R167, R168). -/
def execBreakTaken (l : LinkId) (s : State) : Result :=
  .next (match (s.links[l]).receiver with
    | .character _ => if s.live then settle s (s.updLink l (Hlu.breakReset s.baseFormat)) else s
    | _ => s)

/-! ### The transmitter -/

/-- REPLY_START: the IDLE transmitter starts the waiting reply, in the format in force (R152, R176). -/
def execReplyStart (l : LinkId) (s : State) : Result :=
  .next (match (s.links[l]).waiting with
    | some body =>
      if s.live && decide ((s.links[l]).tx = .idle) then
        s.updLink l fun x => { x with tx := .reply (frameOf body) x.format, waiting := none }
      else s
    | none => s)

/-- REPLY_END: at the reply's last stop bit the transmitter is IDLE, the slot EMPTY and a pending format takes
effect (R172, R176, R178). -/
def execReplyEnd (l : LinkId) (s : State) : Result :=
  .next (match (s.links[l]).tx with
    | .reply _ _ =>
      if s.live then
        s.updLink l fun x =>
          { x with tx := .idle, slot := .empty, format := x.pendingFormat.getD x.format, pendingFormat := none }
      else s
    | _ => s)

/-- The NOTICE frame of a kind: body F0h and the notice code (R153, R185). -/
def noticeFrame (k : NoticeKind) : List Byte :=
  frameOf [Config.noticeCode, k.code]

/-- NOTICE_START: the IDLE transmitter, with no reply waiting, starts the queued NOTICE, which reports the highest
kind then pending; with none pending the frame is dropped (R152, R153). -/
def execNoticeStart (l : LinkId) (s : State) : Result :=
  .next (if s.live && decide ((s.links[l]).tx = .idle) && (s.links[l]).waiting.isNone &&
        (s.links[l]).queuedNotice then
      s.updLink l fun x =>
        match s.topNotice l with
        | some k => { x with tx := .notice (noticeFrame k) x.format, queuedNotice := false }
        | none => { x with queuedNotice := false }
    else s)

/-- NOTICE_END: at the NOTICE's last stop bit the transmitter is IDLE (R176). -/
def execNoticeEnd (l : LinkId) (s : State) : Result :=
  .next (match (s.links[l]).tx with
    | .notice _ _ => if s.live then s.updLink l fun x => { x with tx := .idle } else s
    | _ => s)

end Sys2Proof.Machine
end

