-- ==== Sys2Proof/Machine/ProfileRequests.lean ====
section
/-! DEFINITION. The profile requests: PROFILE-ADD (R53), PROFILE-DROP (R54) and PROFILE-READ (R55). -/

namespace Sys2Proof.Machine

/-- A PROFILE-ADD catalogue entry in the layout of R51: DR length 1 to 1024, class INERT or HELD, a code that
fits the IR length and is not all ones of it. -/
def RawEntry.wellFormed (len : Nat) (x : RawEntry) : Bool :=
  decide (1 ≤ x.drLength) && decide (x.drLength ≤ Config.maxDrLength) && (InstrClass.ofByte x.cls).isSome &&
    codeFits len x.code && decide (x.code ≠ onesCode len)

/-- The entry is well formed by R51 and R53 step 1: IR length 2 to 32, at most 7 catalogue entries, each well
formed, no two equal codes. -/
def profileWellFormed (len : Nat) (es : List RawEntry) : Bool :=
  irLengthInRange len && decide (es.length ≤ 7) && es.all (RawEntry.wellFormed len) &&
    decide (es.map (·.code)).Nodup

/-- The catalogue entry that a well-formed raw entry is. -/
def RawEntry.entry (x : RawEntry) : CatEntry :=
  ⟨x.code, x.drLength, (InstrClass.ofByte x.cls).getD .inert⟩

/-- Two profile entries match the same identity codes: equal masks, and equal values under the mask (R51). -/
def Profile.sameMatch (a b : Profile) : Bool :=
  decide (a.mask = b.mask) && decide (a.value &&& a.mask = b.value &&& b.mask)

/-- PROFILE-ADD's checks in the order of R53, for the entry its parameters give. -/
def State.addProfile (s : State) (value mask : Word32) (len : Nat) (es : List RawEntry) : Answer :=
  if !profileWellFormed len es then s.refuse .badEntry
  else
    let x : Profile := ⟨value, mask, len, es.map RawEntry.entry⟩
    if s.profiles.any x.sameMatch then s.refuse .duplicate
    else if Config.profileLimit ≤ s.profiles.length then s.refuse .tableFull
    else State.answerOk { s with profiles := s.profiles ++ [x] } [u8 s.profiles.length]

/-- PROFILE-ADD (R53). -/
def runProfileAdd (ps : List Byte) (s : State) : Answer :=
  match ps with
  | v3 :: v2 :: v1 :: v0 :: m3 :: m2 :: m1 :: m0 :: len :: _ :: rest =>
    s.addProfile (readU32 v3 v2 v1 v0) (readU32 m3 m2 m1 m0) len.toNat (rawEntriesOf rest)
  | _ => s.refuse .badRequest

/-- PROFILE-ADD. -/
def execProfileAdd (l : LinkId) (s : State) : Result :=
  .next (s.serve l (some .profileAdd) runProfileAdd)

/-- PROFILE-DROP (R54): later entries move up one index. -/
def runProfileDrop (ps : List Byte) (s : State) : Answer :=
  match oneByte ps with
  | some b =>
    if b.toNat < s.profiles.length then
      State.answerOk { s with profiles := s.profiles.eraseIdx b.toNat } []
    else s.refuse .badEntry
  | none => s.refuse .badRequest

/-- PROFILE-DROP. -/
def execProfileDrop (l : LinkId) (s : State) : Result :=
  .next (s.serve l (some .profileDrop) runProfileDrop)

/-- A profile entry as PROFILE-READ reports it (10.4.4). -/
def Profile.bytes (x : Profile) : List Byte :=
  u32 x.value ++ u32 x.mask ++ [u8 x.irLength, u8 x.entries.length] ++ x.entries.flatMap CatEntry.bytes

/-- PROFILE-READ (R55): changes nothing. -/
def runProfileRead (ps : List Byte) (s : State) : Answer :=
  match oneByte ps with
  | some b =>
    s.answerOk (u8 s.profiles.length ::
      match s.profiles[b.toNat]? with
      | some x => x.bytes
      | none => [])
  | none => s.refuse .badRequest

/-- PROFILE-READ. -/
def execProfileRead (l : LinkId) (s : State) : Result :=
  .next (s.serve l (some .profileRead) runProfileRead)

end Sys2Proof.Machine
end

