-- ==== Sys2Proof/Machine/SessionRequests.lean ====
section
/-! DEFINITION. The session and link requests (R133 to R136, R175, R178, R182) and the end of a session
(R98, R66, R142). -/

namespace Sys2Proof.Machine

/-! ### The end of a session -/

/-- A RUNNING job of an ended session becomes an orphan (R98). -/
def JobSlot.orphaned (l : SessionId) (x : JobSlot) : JobSlot :=
  { x with job := x.job.map fun y => if y.session = some l then { y with session := none } else y }

/-- The Job Table's part of a session's end: QUEUED and DONE jobs freed, RUNNING jobs orphans (R98). -/
def State.endJobs (s : State) (l : SessionId) : State :=
  (s.freeJobs fun _ x => decide (x.session = some l) && !x.isRunning).mapJobs fun _ x => x.orphaned l

/-- A session ends by CLOSE or keepalive expiry, in the order of R142: jobs, records, session fields, queued
NOTICE. -/
def State.endSession (s : State) (l : SessionId) : State :=
  (((s.endJobs l).releaseRecords fun _ r => r.ownedBy l).setSession l none).updLink l
    fun x => { x with queuedNotice := false }

/-! ### OPEN -/

/-- A session as OPEN makes it (R133): nothing changed yet, the timer from 0 when the period is not 0, and the
replay store to be written by the reply. -/
def openedSession (tag : List Byte) (period : Nat) (push : Bool) (watch : BitVec 4) : Session where
  tag := tag
  period := period
  timer := if period = 0 then none else some 0
  push := push
  watch := watch
  changed := 0#4
  stored := none

/-- OPEN (R133, R134). -/
def runOpen (l : LinkId) (ps : List Byte) (s : State) : Answer :=
  match ps with
  | n :: rest =>
    match rest.drop n.toNat with
    | [period, push, watch] =>
      match onOff push with
      | some p =>
        if 16 ≤ watch.toNat then s.refuse .badRequest
        else if (s.sessions[l]).isSome then s.refuse .alreadyOpen
        else
          (s.setSession l (some
            (openedSession (rest.take n.toNat) period.toNat p (watch.setWidth 4)))).answerOk [u8 l.val]
      | none => s.refuse .badRequest
    | _ => s.refuse .badRequest
  | [] => s.refuse .badRequest

/-- OPEN. -/
def execOpenSession (l : LinkId) (s : State) : Result :=
  .next (s.serve l (some .openSession) (runOpen l))

/-! ### CLOSE -/

/-- CLOSE of an OPEN session: it ends, and the OK reply carries notice NONE (R135). -/
def runClose (l : LinkId) (_ps : List Byte) (s : State) : Answer :=
  ⟨.ok, [], s.endSession l, none, true⟩

/-- CLOSE. -/
def execCloseSession (l : LinkId) (s : State) : Result :=
  .next (s.serve l (some .closeSession) (runClose l))

/-! ### PING -/

/-- A session's entry in the PING payload: state, tag length, tag (10.4.1). -/
def pingEntry : Option Session → List Byte
  | some x => 1#8 :: u8 x.tag.length :: x.tag
  | none => [0#8, 0#8]

/-- The PING payload (R136, 10.4.1). -/
def State.pingPayload (s : State) (l : LinkId) : List Byte :=
  u16 Config.partCode ++ [Config.revision, u8 l.val] ++
    ((List.finRange 4).map fun c => (s.chains[c]).phase.byte) ++
    (List.finRange 4).flatMap fun k => pingEntry s.sessions[k]

/-- PING changes nothing (R136). -/
def runPing (l : LinkId) (_ps : List Byte) (s : State) : Answer :=
  s.answerOk (s.pingPayload l)

/-- PING. -/
def execPing (l : LinkId) (s : State) : Result :=
  .next (s.serve l (some .ping) (runPing l))

/-! ### LINK-FORMAT -/

/-- The format a LINK-FORMAT carries, when its parameters are good (R178). -/
def formatOf (ps : List Byte) : Option LinkFormat :=
  match ps with
  | [hi, lo, p, b] =>
    match Parity.ofByte p, StopBits.ofByte b with
    | some parity, some stop =>
      if readU16 hi lo = 0 then none else some ⟨readU16 hi lo, parity, stop⟩
    | _, _ => none
  | _ => none

/-- LINK-FORMAT: the format becomes pending with its reply; the format in force is not changed (R178). -/
def runLinkFormat (ps : List Byte) (s : State) : Answer :=
  match formatOf ps with
  | some f => ⟨.ok, f.bytes, s, some f, false⟩
  | none => s.refuse .badRequest

/-- LINK-FORMAT. -/
def execLinkFormat (l : LinkId) (s : State) : Result :=
  .next (s.serve l (some .linkFormat) runLinkFormat)

/-! ### LINK-STATUS -/

/-- LINK-STATUS returns the cause set, the format in force and the base divisor, and empties the set (R175). -/
def runLinkStatus (l : LinkId) (_ps : List Byte) (s : State) : Answer :=
  (s.updLink l fun x => { x with causes := 0#7 }).answerOk
    ((s.links[l]).causes.setWidth 8 :: ((s.links[l]).format.bytes ++ u16 s.baseDivisor))

/-- LINK-STATUS. -/
def execLinkStatus (l : LinkId) (s : State) : Result :=
  .next (s.serve l (some .linkStatus) (runLinkStatus l))

/-! ### A command code outside the table -/

/-- A request whose command code is not in Table 10-3: answered BAD_REQUEST with reply code FFh (R131 step 2,
R182); a retry is answered from the replay store. -/
def execUnknownCommand (l : LinkId) (s : State) : Result :=
  .next (s.serve l none fun _ t => t.refuse .badRequest)

end Sys2Proof.Machine
end

