-- ==== Sys2Proof/Machine/ResetEvents.lean ====
section
/-! DEFINITION. Power-on (R186) and warm reset: the assertion of RESET_N (R45, R67, R99, R126, R143, R157, R180,
R188) and its release (R45, R127). -/

namespace Sys2Proof.Machine

/-! ### Power-on -/

/-- POWER_ON: all state is discarded and the internal reset begins (R186). -/
def execPowerOn (s : State) : Result :=
  .next { State.reset with pending := s.pending }

/-- A Chain Controller at the end of the internal reset (R29, R186): DISABLED, or RESETTING with destination
ENUMERATE, its first test reset begun when power-on completes. -/
def Chain.strapped (enabled begun : Bool) : Chain :=
  if enabled then
    if begun then (Chain.powerOn (.resetting .enumerate)).beginOp else Chain.powerOn (.resetting .enumerate)
  else Chain.powerOn .disabled

/-- The part at the end of the internal reset: straps sampled, every table at its power-on value; with RESET_N
low the asserted condition, and power-on completes at the release (R186, R187). -/
def State.poweredOn (straps : Straps) (resetNHigh : Bool) (pending : List Instr) : State :=
  { State.reset with
    power := .operating
    resetLow := !resetNHigh
    straps := straps
    tickRunning := resetNHigh
    links := Vector.ofFn fun _ => Hlu.powerOn (Straps.baseDivisor straps)
    chains := Vector.ofFn fun c => Chain.strapped (chainMember straps.chainEn c) resetNHigh
    pending := pending }

/-- INTERNAL_RESET_END: after 65536 REFCLK periods (R186). -/
def execInternalResetEnd (straps : Straps) (resetNHigh : Bool) (s : State) : Result :=
  .next (if s.power = .internalReset then State.poweredOn straps resetNHigh s.pending else s)

/-! ### Assertion of RESET_N -/

/-- A record's state after the assertion, by its chain's state (R67): owners are cleared. -/
def TargetRecord.warmState (phase : ChainPhase) (r : TargetRecord) : RecordState :=
  match r.state with
  | .available => .available
  | .suspect _ => .suspect none
  | .releasing =>
    if phase = .resetting .returning then .releasing else if r.held then .releasing else .available
  | .claimed _ => if r.held then .releasing else .available

/-- The chain state after the assertion (R45, R126): a scan is abandoned for a RETURN, an enumeration for a new
one. -/
def ChainPhase.warm : ChainPhase → ChainPhase
  | .scanning _ => .resetting .returning
  | .enumerating _ => .resetting .enumerate
  | .disabled => .disabled
  | .resetting d => .resetting d
  | .ready => .ready
  | .fault k => .fault k

/-- The park list after the assertion: on a READY chain one entry for each RELEASING record in ascending position,
empty otherwise (R67). -/
def State.warmParks (s : State) (c : ChainId) : List Handle :=
  if (s.chains[c]).phase = .ready then
    ((s.chainRecords c).filter fun ir => decide (ir.2.warmState .ready = .releasing)).map
      fun ir => s.handleOf ir.1
  else []

/-- The directory's part of a warm reset (R67). -/
def State.warmRecords (s : State) : State :=
  s.mapRecords fun _ r => { r with state := r.warmState (s.chains[r.chain]).phase }

/-- RESET_N is asserted: one event, every block by its own rule (R188). -/
def State.warmReset (s : State) : State :=
  { ((s.warmRecords.mapChains fun c x =>
        { x with phase := x.phase.warm, op := none, queue := [], parks := s.warmParks c }).mapJobs
      fun _ x => if x.job.isSome then x.freed else x) with
    resetLow := true
    sessions := Vector.ofFn fun _ => none
    links := Vector.ofFn fun _ => Hlu.powerOn s.baseDivisor
    lines := Vector.ofFn fun e => { s.lines[e] with candidate := none, flag := false } }

/-- RESET_N_ASSERT: a low on RESET_N is taken; it has no effect during the internal reset (R186, R188). -/
def execResetNAssert (s : State) : Result :=
  .next (if s.live then s.warmReset else s)

/-! ### Release of RESET_N -/

/-- A chain resumes at the release (R127): a RETURN or an enumeration begins from its test reset. -/
def Chain.resume (x : Chain) : Chain :=
  match x.phase with
  | .resetting _ => x.beginOp
  | _ => x

/-- RESET_N_RELEASE: RESET_N returns high (R127); where power-on waited for it, power-on completes and the tick
generator starts (R186, R187). -/
def execResetNRelease (s : State) : Result :=
  .next (if decide (s.power = .operating) && s.resetLow then
      { (s.mapChains fun _ x => x.resume) with resetLow := false, tickRunning := true }
    else s)

end Sys2Proof.Machine
end

