-- ==== Sys2Proof/Machine/TimerEvents.lean ====
section
/-! DEFINITION. The tick, which reaches the keepalive timers, the wait timers and the Event Monitor together (R187),
and the two expiries: a session's keepalive timer (R140 to R143) and a job's wait timer (R90). -/

namespace Sys2Proof.Machine

/-- A timer counts one tick and waits at its limit for the expiry to be taken. -/
def countTick (limit : Nat) (t : Nat) : Nat :=
  if t < limit then t + 1 else t

/-- The tick at which a session's keepalive expires (R140). -/
def Session.limit (x : Session) : Nat :=
  x.period * Config.ticksPerSecond

/-- A tick at an OPEN session: its keepalive timer, if it runs, counts (R140). -/
def Session.tick (x : Session) : Session :=
  { x with timer := x.timer.map (countTick x.limit) }

/-- A tick at a job: the wait timer of a QUEUED job, if it runs, counts (R90). -/
def Job.tick (x : Job) : Job :=
  match x.status with
  | .queued (some t) => { x with status := .queued (some (countTick x.waitLimit t)) }
  | .queued none => x
  | .running => x
  | .done _ _ => x

/-- One tick at its three users (R187): every session's keepalive timer, every job's wait timer, and the Event
Monitor, whose lines read these pins. -/
def State.tick (s : State) (pins : BitVec 8) : State :=
  ((s.mapSessions fun _ x => x.tick).mapJobs fun _ x => { x with job := x.job.map Job.tick }).sampleLines pins

/-- EVENT_LINE_SAMPLE: the tick, taken whole (R157, R187, log entry 9). It has no effect while RESET_N is asserted
and in the internal reset (R157, R186, R187). -/
def execEventLineSample (pins : BitVec 8) (s : State) : Result :=
  .next (if s.live && s.tickRunning then settle s (s.tick pins) else s)

/-- The session's keepalive timer runs and has reached its period (R140). -/
def Session.expired (x : Session) : Bool :=
  decide (x.period ≠ 0) && decide (x.timer = some x.limit)

/-- KEEPALIVE_EXPIRY: the session ends (R140, R142, R143). -/
def execKeepaliveExpiry (l : SessionId) (s : State) : Result :=
  .next (match s.sessions[l] with
    | some x => if s.live && x.expired then settle s (s.endSession l) else s
    | none => s)

/-- The job is QUEUED and its wait timer has reached its limit (R90). -/
def Job.expired (x : Job) : Bool :=
  decide (x.waitLimit ≠ 0) && decide (x.status = .queued (some x.waitLimit))

/-- WAIT_LIMIT_EXPIRY: the job leaves its queue and becomes DONE with TIMEOUT (R90). -/
def execWaitLimitExpiry (j : JobId) (s : State) : Result :=
  .next (match (s.jobs[j]).job with
    | some x => if s.live && x.expired then settle s (s.finishJob x.chain j .timeout []) else s
    | none => s)

end Sys2Proof.Machine
end

