-- ==== Sys2Proof/Machine/Dispatch.lean ====
section
/-! DEFINITION. The meaning of every command: one arm per row of spec/opcode_table.json. -/

namespace Sys2Proof.Machine

def exec (i : Instr) (s : State) : Host.Outcome State Fault Refusal :=
  match i with
  | .powerOn => Sys2Proof.Machine.execPowerOn s
  | .internalResetEnd straps resetNHigh => Sys2Proof.Machine.execInternalResetEnd straps resetNHigh s
  | .resetNAssert => Sys2Proof.Machine.execResetNAssert s
  | .resetNRelease => Sys2Proof.Machine.execResetNRelease s
  | .characterReceived l x => Sys2Proof.Machine.execCharacterReceived l x s
  | .breakTaken l => Sys2Proof.Machine.execBreakTaken l s
  | .gapExpiry l => Sys2Proof.Machine.execGapExpiry l s
  | .replyStart l => Sys2Proof.Machine.execReplyStart l s
  | .replyEnd l => Sys2Proof.Machine.execReplyEnd l s
  | .noticeStart l => Sys2Proof.Machine.execNoticeStart l s
  | .noticeEnd l => Sys2Proof.Machine.execNoticeEnd l s
  | .unknownCommand l => Sys2Proof.Machine.execUnknownCommand l s
  | .openSession l => Sys2Proof.Machine.execOpenSession l s
  | .closeSession l => Sys2Proof.Machine.execCloseSession l s
  | .ping l => Sys2Proof.Machine.execPing l s
  | .linkFormat l => Sys2Proof.Machine.execLinkFormat l s
  | .linkStatus l => Sys2Proof.Machine.execLinkStatus l s
  | .list l => Sys2Proof.Machine.execList l s
  | .lookup l => Sys2Proof.Machine.execLookup l s
  | .find l => Sys2Proof.Machine.execFind l s
  | .describe l => Sys2Proof.Machine.execDescribe l s
  | .claim l => Sys2Proof.Machine.execClaim l s
  | .release l => Sys2Proof.Machine.execRelease l s
  | .scanIr l => Sys2Proof.Machine.execScanIr l s
  | .scanDr l => Sys2Proof.Machine.execScanDr l s
  | .chainReset l => Sys2Proof.Machine.execChainReset l s
  | .fetch l => Sys2Proof.Machine.execFetch l s
  | .cancel l => Sys2Proof.Machine.execCancel l s
  | .rescan l => Sys2Proof.Machine.execRescan l s
  | .chainConfig l => Sys2Proof.Machine.execChainConfig l s
  | .profileAdd l => Sys2Proof.Machine.execProfileAdd l s
  | .profileDrop l => Sys2Proof.Machine.execProfileDrop l s
  | .profileRead l => Sys2Proof.Machine.execProfileRead l s
  | .bindEvent l => Sys2Proof.Machine.execBindEvent l s
  | .unbindEvent l => Sys2Proof.Machine.execUnbindEvent l s
  | .eventStatus l => Sys2Proof.Machine.execEventStatus l s
  | .keepaliveExpiry l => Sys2Proof.Machine.execKeepaliveExpiry l s
  | .waitLimitExpiry j => Sys2Proof.Machine.execWaitLimitExpiry j s
  | .grant c => Sys2Proof.Machine.execGrant c s
  | .scanCompletion c tdi => Sys2Proof.Machine.execScanCompletion c tdi s
  | .chainResetCompletion c => Sys2Proof.Machine.execChainResetCompletion c s
  | .returnCompletion c => Sys2Proof.Machine.execReturnCompletion c s
  | .testResetComplete c => Sys2Proof.Machine.execTestResetComplete c s
  | .idRead c tdi => Sys2Proof.Machine.execIdRead c tdi s
  | .irMeasure c tdi => Sys2Proof.Machine.execIrMeasure c tdi s
  | .bypassCount c tdi => Sys2Proof.Machine.execBypassCount c tdi s
  | .closingAction c => Sys2Proof.Machine.execClosingAction c s
  | .eventLineSample pins => Sys2Proof.Machine.execEventLineSample pins s
  | .lineAtMarking l => Sys2Proof.Machine.execLineAtMarking l s
  | .startBit l => Sys2Proof.Machine.execStartBit l s
  | .startBitNoise l => Sys2Proof.Machine.execStartBitNoise l s

end Sys2Proof.Machine
end

