-- ==== Sys2Proof/Machine/Pins.lean ====
section
/-! DEFINITION. The output pins as views of the state: the levels a chain port holds (R29, R30, R114, R117, R126,
R186), the periods a chain operation clocks (R30, R32 to R34, R103, R106, R123), and the bits on TXD (R165,
R176). `true` is high, and marking on TXD. -/

namespace Sys2Proof.Machine

/-- The levels a chain port holds (Table 12-1). -/
structure PortLevels where
  tck : Bool
  tms : Bool
  tdoOut : Bool
  trstN : Bool
  deriving DecidableEq, Repr

/-- The levels during one TCK period of a chain operation. -/
structure PortPeriod where
  tms : Bool
  tdoOut : Bool
  trstN : Bool
  deriving DecidableEq, Repr

/-- TCK low, TMS high, TDO_OUT high, TRST_N high: a DISABLED port, the internal reset, and RESET_N asserted (R29,
R126, R186, R188). -/
def heldSafe : PortLevels :=
  ⟨false, true, true, true⟩

/-- TCK low, TMS low, TDO_OUT high, TRST_N high: between chain operations and in FAULT (R30, R117). -/
def heldIdle : PortLevels :=
  ⟨false, false, true, true⟩

/-- The levels a chain's port holds, none while a chain operation clocks it. -/
def State.portHeld (s : State) (c : ChainId) : Option PortLevels :=
  if !s.live then some heldSafe
  else if (s.chains[c]).phase = .disabled then some heldSafe
  else if (s.chains[c]).op.isSome then none
  else some heldIdle

/-- A test reset (R30): five periods with TMS high, TRST_N low with TRST use on, then one with TMS low. -/
def testResetPeriods (trstUse : Bool) : List PortPeriod :=
  List.replicate 5 ⟨true, true, !trstUse⟩ ++ [⟨false, true, true⟩]

/-- ENTRY of a scan through the data registers, or through the instruction registers (R103). -/
def entryPeriods (ir : Bool) : List PortPeriod :=
  if ir then [⟨true, true, true⟩, ⟨true, true, true⟩, ⟨false, true, true⟩, ⟨false, true, true⟩]
  else [⟨true, true, true⟩, ⟨false, true, true⟩, ⟨false, true, true⟩]

/-- SHIFT of the given out bits: TMS is 1 on the last period alone (R103). -/
def shiftPeriods : List Bool → List PortPeriod
  | [] => []
  | [b] => [⟨true, b, true⟩]
  | b :: rest => ⟨false, b, true⟩ :: shiftPeriods rest

/-- EXIT: update, return to idle (R103). -/
def exitPeriods : List PortPeriod :=
  [⟨true, true, true⟩, ⟨false, true, true⟩]

/-- IDLE_HOLD (R103, R109). -/
def idlePeriods (n : Nat) : List PortPeriod :=
  List.replicate n ⟨false, true, true⟩

/-- Every period of a granted scan, from ENTRY to the end of IDLE_HOLD (R103, R106); a chain reset is a test
reset and its idle hold (R123). -/
def Scan.periods (trstUse : Bool) (x : Scan) : List PortPeriod :=
  match x.kind with
  | .ir => entryPeriods true ++ shiftPeriods x.outBits ++ exitPeriods ++ idlePeriods x.idle
  | .dr => entryPeriods false ++ shiftPeriods x.outBits ++ exitPeriods ++ idlePeriods x.idle
  | .reset => testResetPeriods trstUse ++ idlePeriods x.idle

/-- The bits an enumeration scan of `n` shifts drives: ones, but for the first 512 zeros of IR_MEASURE (R32, R33,
R34). -/
def EnumStep.outBits (n : Nat) : EnumStep → List Bool
  | .irMeasure _ => (List.range n).map fun k => decide (Config.measureZeros ≤ k)
  | _ => List.replicate n true

/-- The scan of the step is an IR scan: IR_MEASURE alone (R33). -/
def EnumStep.isIr : EnumStep → Bool
  | .irMeasure _ => true
  | _ => false

/-- The periods of an enumeration scan on the bits arriving on TDI_IN, without idle hold (R103): ENTRY and SHIFT up
to the shift that these bits make the last, with EXIT after it (R32 to R34); while they do not end the scan, the
shifts that brought them. -/
def EnumStep.periods (x : EnumStep) (tdi : List Bool) : List PortPeriod :=
  entryPeriods x.isIr ++
    match x.shifts tdi with
    | some n => shiftPeriods (x.outBits n) ++ exitPeriods
    | none => (x.outBits tdi.length).map fun b => ⟨false, b, true⟩

/-- The periods that a chain's operation in progress clocks at the settings it began with, where `tdi` are the bits
arriving on TDI_IN, which decide the number of shifts of an enumeration scan (R32 to R34) and nothing else. -/
def State.portPeriods (s : State) (c : ChainId) (tdi : List Bool) : List PortPeriod :=
  match (s.chains[c]).op with
  | none => []
  | some f =>
    match (s.chains[c]).phase with
    | .resetting _ => testResetPeriods f.trstUse
    | .enumerating step => step.periods tdi
    | .scanning x => x.periods f.trstUse
    | _ => []

/-- The bits that the frame in transmission puts on TXD; with none TXD rests at marking (R176). -/
def State.txdBits (s : State) (l : LinkId) : List Bool :=
  match (s.links[l]).tx with
  | .idle => []
  | .reply frame f => frame.flatMap (charBits f)
  | .notice frame f => frame.flatMap (charBits f)

end Sys2Proof.Machine
end

