-- ==== Sys2Proof/Safety.lean ====
section
/-! DEFINITION. What a safe state is, in the terms the statements use: the laws the spec gives the directory, the
tables, the chains and the links. Each is a predicate of one state. -/

namespace Sys2Proof.Machine

/-! ### Requests and replies, in the terms the statements use -/

/-- The row of a request (Table 10-3). -/
def Request.row (r : Request) (l : LinkId) : Instr :=
  match r with
  | .openSession => .openSession l
  | .closeSession => .closeSession l
  | .ping => .ping l
  | .linkFormat => .linkFormat l
  | .linkStatus => .linkStatus l
  | .list => .list l
  | .lookup => .lookup l
  | .find => .find l
  | .describe => .describe l
  | .claim => .claim l
  | .release => .release l
  | .scanIr => .scanIr l
  | .scanDr => .scanDr l
  | .chainReset => .chainReset l
  | .fetch => .fetch l
  | .cancel => .cancel l
  | .rescan => .rescan l
  | .chainConfig => .chainConfig l
  | .profileAdd => .profileAdd l
  | .profileDrop => .profileDrop l
  | .profileRead => .profileRead l
  | .bindEvent => .bindEvent l
  | .unbindEvent => .unbindEvent l
  | .eventStatus => .eventStatus l

/-- The row of the request that a command code makes on a link: UNKNOWN_COMMAND outside Table 10-3. -/
def rowOf (code : Byte) (l : LinkId) : Instr :=
  match Request.ofByte code with
  | some r => r.row l
  | none => .unknownCommand l

/-- The sequence number in a session's replay store (R137): none for a CLOSED session. -/
def State.storedSeq (s : State) (l : SessionId) : Option Byte :=
  (s.sessions[l]).bind fun x => x.stored.map fun y => y.seq

/-- The session is OPEN. -/
abbrev State.isOpen (s : State) (l : SessionId) : Prop :=
  (s.sessions[l]).isSome = true

/-- A request with this command code, sequence number and parameters stands untaken in the link's request slot,
and it is no retry (R131 step 1, R172). -/
abbrev State.asked (s : State) (l : LinkId) (code seq : Byte) (ps : List Byte) : Prop :=
  s.live = true ∧ (s.links[l]).slot = .untaken (code :: seq :: ps) ∧ s.storedSeq l ≠ some seq

/-- A reply body (Table 10-2). -/
def replyBytes (code seq : Byte) (outcome : OutcomeCode) (notice : Byte) (payload : List Byte) : List Byte :=
  [code, seq, outcome.byte, notice] ++ payload

/-- The state once a reply body is handed to the link's HLU: the frame taken, the reply waiting, and the format it
carries pending (R131 step 7, R172, R178). -/
def State.handed (u : State) (l : LinkId) (body : List Byte) (f : Option LinkFormat) : State :=
  { u with
    links := u.links.set l { u.links[l] with slot := .taken, waiting := some body, pendingFormat := f } }

/-- The state `u` that a request's execution leaves, once its reply is built with the notice byte of `u`, stored if
the session is OPEN, and handed over (R131 steps 5 to 7). -/
def State.responds (u : State) (l : LinkId) (code seq : Byte) (outcome : OutcomeCode) (payload : List Byte)
    (f : Option LinkFormat := none) : State :=
  let body := replyBytes code seq outcome (u.noticeByte l) payload
  { u.handed l body f with
    sessions := match u.sessions[l] with
      | some x => u.sessions.set l (some { x with stored := some ⟨seq, body, f⟩ })
      | none => u.sessions }

/-! ### Links -/

/-- The state once one link's HLU is replaced. -/
def State.withLink (s : State) (l : LinkId) (x : Hlu) : State :=
  { s with links := s.links.set l x }

/-- The parity bit agrees with the data (R165): the number of 1s among them is even under EVEN and odd under ODD. -/
def parityAgrees (p : Parity) (b : Byte) (bit : Bool) : Prop :=
  match p with
  | .none => True
  | .even => ((List.range 8).countP b.getLsbD + bit.toNat) % 2 = 0
  | .odd => ((List.range 8).countP b.getLsbD + bit.toNat) % 2 = 1

/-- The samples of a good character of a byte in a format (R165, R166). -/
def goodSamples (f : LinkFormat) (b : Byte) : CharSamples :=
  { data := b
    parity := match f.parity with
      | .none => true
      | .even => decide ((List.range 8).countP b.getLsbD % 2 = 1)
      | .odd => decide ((List.range 8).countP b.getLsbD % 2 = 0)
    stop := true
    allSpacing := false }

/-- The commands by which a link's receiver takes good characters one after another: a start bit and a character
each. -/
def arrivals (l : LinkId) (f : LinkFormat) (bytes : List Byte) : List Instr :=
  bytes.flatMap fun b => [.startBit l, .characterReceived l (goodSamples f b)]

/-- The state after a list of commands, each answered with a next state. -/
def State.after (s : State) : List Instr → Option State
  | [] => some s
  | i :: rest =>
    match exec i s with
    | .next t => t.after rest
    | _ => none

/-- A frame as it is sent: sync, length, body, and the check of length byte and body, high byte first (R176,
R181). -/
def sentFrame (body : List Byte) : List Byte :=
  [0xD5#8, BitVec.ofNat 8 body.length] ++ body ++
    [(crc16 (BitVec.ofNat 8 body.length :: body)).extractLsb' 8 8,
      (crc16 (BitVec.ofNat 8 body.length :: body)).extractLsb' 0 8]

/-- The sessions once one keepalive timer, if it runs, restarts from 0 (R140). -/
def State.restarted (s : State) (l : SessionId) : Vector (Option Session) 4 :=
  s.sessions.set l ((s.sessions[l]).map fun x => { x with timer := x.timer.map fun _ => 0 })

/-! ### Jobs -/

/-- A job entered into a slot: QUEUED, its wait timer from 0 unless the limit is 0, at the end of its chain's queue
(R79). -/
def State.entered (s : State) (j : JobId) (l : SessionId) (c : ChainId) (kind : JobKind) (idle wait : Nat) : State :=
  { s with
    jobs := s.jobs.set j ⟨(s.jobs[j]).generation, some
      { session := some l, kind := kind, chain := c, idle := idle, waitLimit := wait,
        status := .queued (if wait = 0 then none else some 0) }⟩
    chains := s.chains.set c { s.chains[c] with queue := (s.chains[c]).queue ++ [j] } }

/-- The lowest-numbered FREE job slot (R75). -/
abbrev State.lowestFree (s : State) (j : JobId) : Prop :=
  (s.jobs[j]).job = none ∧ ∀ k : JobId, k < j → (s.jobs[k]).job ≠ none

/-- The end of every accepted job request: JOB_LIMIT with four jobs held, then NO_JOB_SLOT with no slot FREE, then
the job entered and answered ACCEPTED with its ticket (R79). -/
def State.EntersJob (s : State) (i : Instr) (l : LinkId) (code seq : Byte) (c : ChainId) (kind : JobKind)
    (idle wait : Nat) : Prop :=
  (4 ≤ s.jobsHeld l → exec i s = .next (s.responds l code seq .jobLimit [])) ∧
  (s.jobsHeld l < 4 → (∀ j : JobId, (s.jobs[j]).job ≠ none) →
    exec i s = .next (s.responds l code seq .noJobSlot [])) ∧
  (∀ j : JobId, s.jobsHeld l < 4 → s.lowestFree j →
    exec i s = .next ((s.entered j l c kind idle wait).responds l code seq .accepted
      [BitVec.ofNat 8 ((s.jobs[j]).generation * 16 + j.val)]))

/-- The job of a slot is freed: FREE with the next generation, its slot in no chain queue (R78). -/
def State.withoutJob (s : State) (j : JobId) : State :=
  { s with
    jobs := s.jobs.set j
      ⟨if (s.jobs[j]).generation = 15 then 1 else (s.jobs[j]).generation + 1, none⟩
    chains := Vector.ofFn fun c =>
      { s.chains[c] with queue := (s.chains[c]).queue.filter fun k => decide (k ≠ j) } }

/-! ### Records -/

/-- The record of a slot with its state replaced, everything else kept. -/
def State.withRecordState (s : State) (i : SlotId) (r : TargetRecord) (x : RecordState) : State :=
  { s with slots := s.slots.set i ⟨(s.slots[i]).generation, some { r with state := x }⟩ }

/-- The records of two slots are live and share a chain and a position. -/
def State.samePlace (s : State) (i j : SlotId) : Bool :=
  match (s.slots[i]).record, (s.slots[j]).record with
  | some p, some q => decide (p.chain = q.chain) && decide (p.position = q.position)
  | _, _ => false

/-- No two live records share a chain and a position (R5). -/
abbrev State.placesDistinct (s : State) : Prop :=
  ∀ i j : SlotId, i ≠ j → s.samePlace i j = false

/-- The chain is READY or SCANNING (R57, R60). -/
def ChainPhase.working (p : ChainPhase) : Prop :=
  p = .ready ∨ ∃ x, p = .scanning x

/-- Some live record of the chain is owned by a session other than this one (R46, R49, R82). -/
def State.ownedByOthers (s : State) (l : SessionId) (c : ChainId) : Prop :=
  ∃ (i : SlotId) (r : TargetRecord) (o : SessionId),
    (s.slots[i]).record = some r ∧ r.chain = c ∧ r.state.owner = some o ∧ o ≠ l

/-- The session watches the chain or owns a live record of it (R145). -/
def State.party (s : State) (c : ChainId) (l : SessionId) : Bool :=
  (match s.sessions[l] with
    | some x => x.watch.getLsbD c.val
    | none => false) ||
  (List.finRange 32).any fun i =>
    match (s.slots[i]).record with
    | some r => decide (r.chain = c ∧ r.state.owner = some l)
    | none => false

/-- The sessions once those that fit the test are told of the chain: it joins their changed sets (R145, R146). -/
def State.told (s : State) (c : ChainId) (p : SessionId → Bool) : Vector (Option Session) 4 :=
  Vector.ofFn fun l => (s.sessions[l]).map fun x =>
    if p l = true then { x with changed := x.changed ||| (1#4 <<< c.val) } else x

/-- The line is bound to a live record that fits the test. -/
def State.boundTo (s : State) (e : LineId) (p : SlotId → TargetRecord → Bool) : Bool :=
  match (s.lines[e]).binding.bind s.named with
  | some (i, r) => p i r
  | none => false

/-- An event line without a binding (R156): its taken level and candidate are kept. -/
def EventLine.unbound (x : EventLine) : EventLine :=
  { taken := x.taken, candidate := x.candidate, binding := none, polarity := .assertHigh, mode := .assertOnly,
    flag := false }

/-- The state once a session has ended by CLOSE or expiry (R142): its QUEUED and DONE jobs freed, its RUNNING ones
orphans; each record it owned without owner, SUSPECT if it was, RELEASING if a job of it runs or its resident class
is HELD, AVAILABLE otherwise, a park for each HELD one with no job running joining its chain's list in ascending
position; its fields gone, and a queued NOTICE of its link dropped. -/
def State.withoutSession (s : State) (l : SessionId) : State :=
  let frees : JobId → Bool := s.jobFits fun _ x => decide (x.session = some l) && !x.isRunning
  let runs : SlotId → Bool := fun i =>
    s.anyJob fun _ x => x.isRunning && decide (x.kind.target = some (s.handleOf i))
  let parks : SlotId → TargetRecord → Bool := fun i r =>
    decide (r.state.owner = some l) && decide (r.state ≠ .suspect (some l)) && !runs i &&
      decide (r.residentClass = some .held)
  { s with
    jobs := Vector.ofFn fun j : JobId =>
      if frees j = true then ⟨if (s.jobs[j]).generation = 15 then 1 else (s.jobs[j]).generation + 1, none⟩
      else
        ⟨(s.jobs[j]).generation, (s.jobs[j]).job.map fun x =>
          if x.session = some l then { x with session := none } else x⟩
    chains := Vector.ofFn fun c : ChainId =>
      { s.chains[c] with
        queue := (s.chains[c]).queue.filter fun j => !frees j
        parks := (s.chains[c]).parks ++
          ((s.chainRecords c).filter fun (i, r) => parks i r).map fun (i, _) => s.handleOf i }
    slots := Vector.ofFn fun i : SlotId =>
      ⟨(s.slots[i]).generation, (s.slots[i]).record.map fun r =>
        if r.state.owner = some l then
          { r with
            state :=
              if r.state = .suspect (some l) then .suspect none
              else if runs i = true ∨ r.residentClass = some .held then .releasing
              else .available }
        else r⟩
    sessions := s.sessions.set l none
    links := s.links.set l { s.links[l] with queuedNotice := false } }

/-! ### Enumeration -/

/-- The chain once it goes on with its enumeration at a step, at the settings in force (R31, R50). -/
def State.enumerates (s : State) (c : ChainId) (step : EnumStep) : State :=
  { s with
    chains := s.chains.set c
      { s.chains[c] with phase := .enumerating step, op := some (s.chains[c]).settings } }

/-- The session is OPEN and watches the chain. -/
def State.watches (s : State) (c : ChainId) (l : SessionId) : Bool :=
  match s.sessions[l] with
  | some x => x.watch.getLsbD c.val
  | none => false

/-- The state once an enumeration fault is raised (R36): FAULT with the cause, the enumeration values cleared, the
chain's watchers told, and the NOTICE frames that this queues. -/
def State.enumFaulted (s : State) (c : ChainId) (cause : FaultCause) : State :=
  settle s
    { s with
      chains := s.chains.set c
        { s.chains[c] with phase := .fault cause, op := none, targetCount := 0, totalIr := 0, capture := [] }
      sessions := s.told c (s.watches c) }

/-- The TCK periods of an enumeration scan that shifts these bits out (R103): TMS 1, 0, 0 into the shift of the data
registers, with one more 1 before for the instruction registers; TMS 1 on the last shift alone; TMS 1, 0 back to idle.
TDO_OUT is high outside the shift, and TRST_N throughout. -/
def scanClocked (ir : Bool) (out : List Bool) : List PortPeriod :=
  let plain : Bool → PortPeriod := fun t => { tms := t, tdoOut := true, trstN := true }
  (if ir = true then [true, true, false, false] else [true, false, false]).map plain ++
    (out.zipIdx.map fun (b, k) => { tms := decide (k + 1 = out.length), tdoOut := b, trstN := true }) ++
    [true, false].map plain

/-- The bits one target returns to ID_READ (R32): its identification register, bit 0 first, or a single 0. -/
def idItem : Option Word32 → List Bool
  | some code => (List.range 32).map code.getLsbD
  | none => [false]

/-- A code an identification register can hold as a target item (R32): bit 0 is 1, and it is not the end marker. -/
def codeIsItem (ids : List (Option Word32)) : Prop :=
  ∀ code, some code ∈ ids → code.getLsbD 0 = true ∧ code ≠ 0xFFFFFFFF#32

/-- Deduction at enumeration (R41): a description without IR length takes the rest of the total with source DEDUCED
where it is the only one, that rest lies in 2 to 32 and the pattern check passes with it; every other description
stays. -/
def completes (total : Nat) (pattern : List Bool) (ds es : List Description) : Prop :=
  let d := total - (ds.map fun x => x.shape.length.getD 0).sum
  es.length = ds.length ∧
  ∀ (p : Nat) (x : Description), ds[p]? = some x →
    let fits : Prop :=
      x.shape = .unknown ∧ (∀ q y, ds[q]? = some y → y.shape = .unknown → q = p) ∧ 2 ≤ d ∧ d ≤ 32 ∧
        patternOk total pattern (ds.map fun y => y.shape.length.getD d) = true
    (fits → es[p]? = some { x with shape := .known d .deduced }) ∧ (¬ fits → es[p]? = some x)

/-! ### DESCRIBE -/

/-- Some QUEUED or RUNNING job names the record with this handle (R68 step 3). -/
def State.jobWaits (s : State) (h : Handle) : Prop :=
  ∃ (j : JobId) (x : Job), (s.jobs[j]).job = some x ∧ x.isDone = false ∧ x.kind.target = some h

/-- An index outside 1 to 7, two edits of one index, or a set with a DR length outside 1 to 1024 or a class other
than INERT or HELD (R68 step 4). -/
def editsIllFormed (es : List Edit) : Prop :=
  (∃ e ∈ es, e.index < 1 ∨ 7 < e.index) ∨ ¬ (es.map Edit.index).Nodup ∨
    ∃ e ∈ es, e.action = 1#8 ∧ (e.drLength < 1 ∨ 1024 < e.drLength ∨ 1 < e.cls.toNat)

/-- The catalogue entry at place k + 1 once a DESCRIBE's edits are applied (R71, R72). -/
def TargetRecord.entryAfter (r : TargetRecord) (es : List Edit) (k : Fin 7) : Option CatEntry :=
  match es.find? fun e => decide (e.index = k.val + 1) with
  | some e =>
    if e.action = 1#8 then some ⟨e.code, e.drLength, if e.cls = 0#8 then .inert else .held⟩ else none
  | none => r.entries[k]

/-- A set gives a code that does not fit the IR length, is all ones of it, or is the code of another entry that
would be present (R71 step 3). -/
def TargetRecord.codesClash (r : TargetRecord) (len : Nat) (es : List Edit) : Prop :=
  ∃ e ∈ es, e.action = 1#8 ∧
    (2 ^ len ≤ e.code.toNat ∨ e.code = BitVec.ofNat 32 (2 ^ len - 1) ∨
      ∃ (k : Fin 7) (y : CatEntry), k.val + 1 ≠ e.index ∧ r.entryAfter es k = some y ∧ y.code = e.code)

/-- An edit names the index of the record's resident instruction (R71 step 2). -/
def TargetRecord.editsItsResident (r : TargetRecord) (es : List Edit) : Prop :=
  ∃ (x : Fin 8) (e : Edit), r.resident = .index x ∧ e ∈ es ∧ e.index = x.val

/-- Every record slot's generation lies in 1 to 2047 and every job slot's in 1 to 15 (R2, R75). -/
def State.generationsInRange (s : State) : Prop :=
  (∀ i : SlotId, 1 ≤ (s.slots[i]).generation ∧ (s.slots[i]).generation ≤ Config.maxSlotGeneration) ∧
  (∀ j : JobId, 1 ≤ (s.jobs[j]).generation ∧ (s.jobs[j]).generation ≤ Config.maxJobGeneration)

/-- The chain state allows live records: not DISABLED, not ENUMERATING, not RESETTING with destination ENUMERATE
(R5, R28). -/
def ChainPhase.mayHaveRecords : ChainPhase → Prop
  | .disabled => False
  | .resetting d => d = .returning
  | .enumerating _ => False
  | .ready => True
  | .scanning _ => True
  | .fault _ => True

/-- The chain is in FAULT. -/
def ChainPhase.isFault : ChainPhase → Prop
  | .fault _ => True
  | _ => False

/-- The record is SUSPECT. -/
def RecordState.isSuspect : RecordState → Prop
  | .suspect _ => True
  | _ => False

/-- A live record's chain may have records; the record is SUSPECT exactly when its chain is in FAULT, its resident is
UNKNOWN exactly when it is SUSPECT, and it has no owner while its chain returns from a warm reset (R5, R15, R119,
R127). -/
def State.suspectLaw (s : State) : Prop :=
  ∀ (i : SlotId) (r : TargetRecord), (s.slots[i]).record = some r →
    (s.chains[r.chain]).phase.mayHaveRecords ∧
    (r.state.isSuspect ↔ (s.chains[r.chain]).phase.isFault) ∧
    (r.resident = .unknown ↔ r.state.isSuspect) ∧
    ((s.chains[r.chain]).phase = .resetting .returning → r.state.owner = none)

/-- Every owner of a record and every session of a job is an OPEN session (R9, R77, R98). -/
def State.ownersOpen (s : State) : Prop :=
  (∀ (i : SlotId) (r : TargetRecord) (l : SessionId), (s.slots[i]).record = some r →
    r.state.owner = some l → (s.sessions[l]).isSome = true) ∧
  (∀ (j : JobId) (x : Job) (l : SessionId), (s.jobs[j]).job = some x → x.session = some l →
    (s.sessions[l]).isSome = true)

/-- No session holds more than four jobs (R77). -/
def State.jobsLimited (s : State) : Prop :=
  ∀ l : SessionId, s.jobsHeld l ≤ Config.jobLimit

/-- The request slot is HELD by a frame the session has taken exactly while that frame's reply waits or is sent,
and never both (R172, R176). -/
def Hlu.replyLaw (x : Hlu) : Prop :=
  (x.slot = .taken ↔ (x.waiting.isSome = true ∨ ∃ frame f, x.tx = .reply frame f)) ∧
  ¬ (x.waiting.isSome = true ∧ ∃ frame f, x.tx = .reply frame f)

/-- A pending format belongs to a reply that waits or is sent (R164, R178). -/
def Hlu.pendingLaw (x : Hlu) : Prop :=
  x.pendingFormat.isSome = true → x.slot = .taken

/-- The frame assembler and the gap timer agree: in HUNT the timer does not run, and a frame in assembly is
within its length byte (R169, R171). -/
def Hlu.assemblyLaw (x : Hlu) : Prop :=
  match x.assembler with
  | .hunt => x.gap = .stopped
  | .length => x.gap ≠ .stopped
  | .body len got => x.gap ≠ .stopped ∧ 2 ≤ len.toNat ∧ len.toNat ≤ 250 ∧ got.length < len.toNat
  | .check len got _ => x.gap ≠ .stopped ∧ 2 ≤ len.toNat ∧ len.toNat ≤ 250 ∧ got.length = len.toNat

/-- Whether the gap timer has stopped is open just while a candidate start bit or a character is received (R166, R171,
log entry 15). -/
def Hlu.timerLaw (x : Hlu) : Prop :=
  ((x.gap = .candidate ∨ x.gap = .overdue) → ∃ f, x.receiver = .character f) ∧
  (x.gap = .running → ∀ f, x.receiver ≠ .character f)

/-- The laws of every Host Link Unit. -/
def State.linksLaw (s : State) : Prop :=
  ∀ l : LinkId,
    (s.links[l]).replyLaw ∧ (s.links[l]).pendingLaw ∧ (s.links[l]).assemblyLaw ∧ (s.links[l]).timerLaw

/-! ### Scans -/

/-- A segment's returned bits meet its expectation (R110, R111). -/
def Expectation.satisfied (e : Expectation) (bits : List Bool) : Prop :=
  match e with
  | .nothing => True
  | .signature => bits[0]? = some true ∧ bits[1]? = some false
  | .exactly x => bits = x

/-- The captured segments from position 0 upward make up the returned bits, that of the highest position first
(R104, R108). -/
def Scan.returns (x : Scan) (caps : List (List Bool)) (tdi : List Bool) : Prop :=
  caps.length = x.segments.length ∧ tdi = caps.reverse.flatten ∧
    ∀ (p : Nat) (g : Segment) (b : List Bool), x.segments[p]? = some g → caps[p]? = some b → b.length = g.out.length

/-- Every captured segment meets its expectation (R110, R111). -/
def Scan.checks (x : Scan) (caps : List (List Bool)) : Prop :=
  ∀ (p : Nat) (g : Segment) (b : List Bool), x.segments[p]? = some g → caps[p]? = some b → g.expect.satisfied b

/-- The code of a record's catalogue entry: all ones of its IR length for entry 0 (R12, R13). -/
def TargetRecord.codeOf (r : TargetRecord) (m : Fin 8) : Word32 :=
  let ones : Word32 := BitVec.ofNat 32 (2 ^ r.irLength.getD 0 - 1)
  if h : m.val = 0 then ones
  else match r.entries[m.val - 1] with
    | some y => y.code
    | none => ones

/-- An IR scan for the record at a position, with the index it is to hold: that record gets the index's code, every
other its resident's, BYPASS for RESET_DEFAULT, each as many bits as its IR length, bit 0 first, and every segment
must show the capture signature (R104 to R106). -/
def State.irScan (s : State) (c : ChainId) (source : ScanSource) (p : Fin 16) (m : Fin 8) (idle : Nat) :
    Scan where
  source := source
  kind := .ir
  addressed := some p
  segments := (s.chainRecords c).map fun (_, q) =>
    let code := if q.position = p then q.codeOf m else match q.resident with
      | .index k => q.codeOf k
      | _ => q.codeOf 0
    ⟨(List.range (q.irLength.getD 0)).map code.getLsbD, .signature⟩
  idle := idle
  divisor := (s.chains[c]).settings.divisor
  phase := .entry
  returned := []

/-- A DR scan for the record at a position: that record gets the job's bits, every other ones, as many as its resident's
DR length, with the expectation of R107. -/
def State.drScan (s : State) (c : ChainId) (source : ScanSource) (p : Fin 16) (out : List Bool) (idle : Nat) :
    Scan where
  source := source
  kind := .dr
  addressed := some p
  segments := (s.chainRecords c).map fun (_, q) =>
    if q.position = p then ⟨out, .nothing⟩
    else match q.resident with
      | .resetDefault =>
        match q.identity with
        | some code => ⟨List.replicate 32 true, .exactly ((List.range 32).map code.getLsbD)⟩
        | none => ⟨[true], .exactly [false]⟩
      | .index k =>
        if h : k.val = 0 then ⟨[true], .exactly [false]⟩
        else ⟨List.replicate (((q.entries[k.val - 1]).map CatEntry.drLength).getD 0) true, .nothing⟩
      | .unknown => ⟨[], .nothing⟩
  idle := idle
  divisor := (s.chains[c]).settings.divisor
  phase := .entry
  returned := []

/-- The test reset of a CHAIN_RESET job, with its idle hold (R123). -/
def State.resetScan (s : State) (c : ChainId) (j : JobId) (idle : Nat) : Scan where
  source := .job j
  kind := .reset
  addressed := none
  segments := []
  idle := idle
  divisor := (s.chains[c]).settings.divisor
  phase := .entry
  returned := []

/-- A QUEUED job that has these slots ahead of it in its queue may be granted (R86): no QUEUED job ahead names its
target or is a chain reset, and an IR job finds every IR length of the chain known, a DR job every other record of the
chain with an INERT resident class; a chain reset finds no QUEUED job ahead. -/
def State.mayRun (s : State) (c : ChainId) (ahead : List JobId) (x : Job) : Prop :=
  let blocked : (Job → Prop) → Prop := fun p =>
    ∃ (k : JobId) (y : Job), k ∈ ahead ∧ (s.jobs[k]).job = some y ∧ y.isQueued = true ∧ p y
  match x.kind with
  | .ir h _ =>
    ¬ blocked (fun y => y.kind.target = some h ∨ y.kind = .chainReset) ∧
      ∀ (i : SlotId) (r : TargetRecord), (s.slots[i]).record = some r → r.chain = c → r.irLength ≠ none
  | .dr h _ =>
    ¬ blocked (fun y => y.kind.target = some h ∨ y.kind = .chainReset) ∧
      ∀ (i : SlotId) (r : TargetRecord), (s.slots[i]).record = some r → r.chain = c →
        s.handleOf i ≠ h → r.residentClass = some .inert
  | .chainReset => ¬ blocked fun _ => True

/-- The job in this slot is the oldest QUEUED job of the chain's queue that may be granted (R87 step 2). -/
def State.oldestGrantable (s : State) (c : ChainId) (j : JobId) (x : Job) : Prop :=
  ∃ ahead rest, (s.chains[c]).queue = ahead ++ j :: rest ∧ (s.jobs[j]).job = some x ∧ x.isQueued = true ∧
    s.mayRun c ahead x ∧
    ∀ pre k post y, ahead = pre ++ k :: post → (s.jobs[k]).job = some y → y.isQueued = true → ¬ s.mayRun c pre y

/-- A DR job's bit length is the DR length of its target's resident; other kinds always fit (R87 step 3). -/
def State.lengthFits (s : State) (x : Job) : Prop :=
  ∀ h out, x.kind = .dr h out → ∃ i r, s.named h = some (i, r) ∧ r.drLength = some out.length

/-- The state once a scan is in progress on the chain at the settings in force (R50, R88). -/
def State.scans (s : State) (c : ChainId) (x : Scan) : State :=
  { s with
    chains := s.chains.set c { s.chains[c] with phase := .scanning x, op := some (s.chains[c]).settings } }

/-- A finished job's slot: DONE with the outcome and data where the job has a session, freed where it is an orphan
(R91, R92). -/
def JobSlot.ended (a : JobSlot) (o : JobOutcome) (data : List Bool) : JobSlot :=
  match a.job with
  | some y =>
    if y.session = none then ⟨if a.generation = 15 then 1 else a.generation + 1, none⟩
    else ⟨a.generation, some { y with status := .done o data }⟩
  | none => a

/-- The state once a job has run to its end: its slot ended, the job gone from the chain's queue, the chain READY with
no operation in progress (R91). -/
def State.jobEnds (s : State) (c : ChainId) (j : JobId) (data : List Bool) : State :=
  { s with
    jobs := s.jobs.set j ((s.jobs[j]).ended .ok data)
    chains := s.chains.set c
      { s.chains[c] with
        phase := .ready, op := none, queue := (s.chains[c]).queue.filter fun k => decide (k ≠ j) } }

/-- The residents a passing IR scan leaves (R16): the index in the addressed record, index 0 in every other record of
the chain that held RESET_DEFAULT. -/
def State.loaded (s : State) (c : ChainId) (i : SlotId) (m : Fin 8) : State :=
  { s with
    slots := Vector.ofFn fun k : SlotId => ⟨(s.slots[k]).generation, (s.slots[k]).record.map fun q =>
      if q.chain = c then
        if k = i then { q with resident := .index m }
        else if q.resident = .resetDefault then { q with resident := .index 0 }
        else q
      else q⟩ }

/-- The release decision on a record at its job's completion (R61): a RELEASING record with a HELD resident gets a park
at the end of the chain's park list, with an INERT one it becomes AVAILABLE. -/
def State.decided (s : State) (c : ChainId) (i : SlotId) (r : TargetRecord) : State :=
  if r.state = .releasing then
    if r.residentClass = some .held then
      { s with chains := s.chains.set c { s.chains[c] with parks := (s.chains[c]).parks ++ [s.handleOf i] } }
    else s.withRecordState i r .available
  else s

/-- Every record of the chain with RESET_DEFAULT, the RELEASING ones AVAILABLE (R124, R128). -/
def State.resetSlots (s : State) (c : ChainId) : Vector RecordSlot 32 :=
  Vector.ofFn fun k : SlotId => ⟨(s.slots[k]).generation, (s.slots[k]).record.map fun q =>
    if q.chain = c then
      { q with resident := .resetDefault, state := if q.state = .releasing then .available else q.state }
    else q⟩

/-! ### Warm reset -/

/-- A record's state after a warm reset, by the state of its chain (R67): without owner; SUSPECT stays so, RELEASING on
a returning chain stays so, and a CLAIMED or RELEASING record is RELEASING with a HELD resident class, AVAILABLE
otherwise. -/
def TargetRecord.afterReset (r : TargetRecord) (p : ChainPhase) : RecordState :=
  match r.state with
  | .available => .available
  | .suspect _ => .suspect none
  | .releasing =>
    if p = .resetting .returning ∨ r.residentClass = some .held then .releasing else .available
  | .claimed _ => if r.residentClass = some .held then .releasing else .available

/-- A chain's state after a warm reset (R126). -/
def ChainPhase.afterReset (p : ChainPhase) : ChainPhase :=
  match p with
  | .scanning _ => .resetting .returning
  | .enumerating _ => .resetting .enumerate
  | p => p

/-! ### The laws of the tables -/

/-- An enumeration has found at most 16 targets (R32). -/
def ChainPhase.targetsLimited (p : ChainPhase) : Prop :=
  match p with
  | .enumerating (.irMeasure ids) => ids.length ≤ 16
  | .enumerating (.bypassCount ids _ _) => ids.length ≤ 16
  | .enumerating (.closing ids _ _) => ids.length ≤ 16
  | _ => True

/-- A chain's queue holds the slots of its QUEUED and RUNNING jobs and no others, and a chain that is neither READY nor
SCANNING has an empty queue and an empty park list (R77, R84, R119). -/
def State.queuesLaw (s : State) : Prop :=
  (∀ (c : ChainId) (j : JobId), j ∈ (s.chains[c]).queue ↔
    ∃ x, (s.jobs[j]).job = some x ∧ x.chain = c ∧ x.isDone = false) ∧
  ∀ c : ChainId, ¬ (s.chains[c]).phase.working → (s.chains[c]).queue = [] ∧ (s.chains[c]).parks = []

/-- A job is RUNNING exactly while its chain's scan in progress has it as its source, and it stands at the head of its
queue (R84, R88, R100). -/
def State.runsLaw (s : State) : Prop :=
  (∀ (c : ChainId) (x : Scan) (j : JobId), (s.chains[c]).phase = .scanning x → x.source = .job j →
    (s.chains[c]).queue.head? = some j ∧ ∃ y, (s.jobs[j]).job = some y ∧ y.status = .running) ∧
  ∀ (j : JobId) (y : Job), (s.jobs[j]).job = some y → y.status = .running →
    ∃ x, (s.chains[y.chain]).phase = .scanning x ∧ x.source = .job j

/-- A QUEUED job has a session. The target of a QUEUED or RUNNING job is a live record of the job's own chain: its
session has CLAIMED it, or the job is RUNNING and the record waits for it in RELEASING (R60, R61, R66, R80, R81). -/
def State.targetsLaw (s : State) : Prop :=
  (∀ (j : JobId) (x : Job), (s.jobs[j]).job = some x → x.isQueued = true → x.session ≠ none) ∧
  ∀ (j : JobId) (x : Job) (h : Handle), (s.jobs[j]).job = some x → x.isDone = false → x.kind.target = some h →
    ∃ (i : SlotId) (r : TargetRecord), s.named h = some (i, r) ∧ r.chain = x.chain ∧
      ((∃ l, x.session = some l ∧ r.state = .claimed l) ∨ (x.status = .running ∧ r.state = .releasing))

/-- The handle names a record that a park on the chain may be for: live, of that chain, RELEASING with a HELD resident,
and named by no QUEUED or RUNNING job (R60, R61, R63). -/
def State.parkable (s : State) (c : ChainId) (h : Handle) : Prop :=
  (∃ (i : SlotId) (r : TargetRecord),
    s.named h = some (i, r) ∧ r.chain = c ∧ r.state = .releasing ∧ r.residentClass = some .held) ∧
  ¬ s.jobWaits h

/-- Every entry of a chain's park list is for such a record, and each such record has at most one; a park in progress is
for one too, whose entry has left the list (R63, R64). -/
def State.parksLaw (s : State) : Prop :=
  ∀ c : ChainId,
    (s.chains[c]).parks.Nodup ∧ (∀ h ∈ (s.chains[c]).parks, s.parkable c h) ∧
    ∀ (x : Scan) (h : Handle), (s.chains[c]).phase = .scanning x → x.source = .park h →
      s.parkable c h ∧ h ∉ (s.chains[c]).parks

/-- Every line is bound to a live record or unbound, each record to at most one line, and polarity, report mode and flag
of an unbound line are ASSERT_HIGH, ASSERT_ONLY and clear (R17, R156). -/
def State.linesLaw (s : State) : Prop :=
  (∀ (e : LineId) (h : Handle), (s.lines[e]).binding = some h → ∃ i r, s.named h = some (i, r)) ∧
  (∀ (e k : LineId) (h : Handle), (s.lines[e]).binding = some h → (s.lines[k]).binding = some h → e = k) ∧
  ∀ e : LineId, (s.lines[e]).binding = none →
    (s.lines[e]).polarity = .assertHigh ∧ (s.lines[e]).mode = .assertOnly ∧ (s.lines[e]).flag = false

/-- The tick generator counts whenever the part operates with RESET_N high (R187). -/
def State.tickLaw (s : State) : Prop :=
  s.live = true → s.tickRunning = true

/-- The laws of the directory, the Job Table, the chains, the event lines and the tick that every step keeps. -/
def State.tablesLaw (s : State) : Prop :=
  s.generationsInRange ∧ s.suspectLaw ∧ s.placesDistinct ∧ s.ownersOpen ∧ s.jobsLimited ∧
    (∀ c : ChainId, (s.chains[c]).phase.targetsLimited) ∧ s.queuesLaw ∧ s.runsLaw ∧
    s.targetsLaw ∧ s.parksLaw ∧ s.linesLaw ∧ s.tickLaw

end Sys2Proof.Machine
end

