-- ==== Sys2Proof/Certificates/Slice0/Obligations.lean ====
section
/-! DEFINITION. The statements for the provers. Each formalises rules of spec/, named in its docstring; where one
rests on a choice of the model the docstring names the log entry. Requests are stated by `State.asked` (the request
stands untaken in the link's slot and is no retry) and `State.responds` (the reply as R131 builds, stores and hands
it over), both in Safety.lean. -/

open Sys2Proof Sys2Proof.Machine

/-! ### The queue -/

/-- The command at the front of the queue is the one that runs, on the state with the rest of the queue (log entry 1);
with nothing queued the part idles (log entry 9: a tick is a command). -/
def Obligations.StepRunsFrontCommand : Prop :=
  (∀ (i : Instr) (rest : List Instr) (s : State), s.pending = i :: rest →
    step s = exec i { s with pending := rest }) ∧
  ∀ s : State, s.pending = [] → step s = .next s

/-! ### Request frames (R131, R132, R137, R138, R182, R183) -/

/-- A retry is answered with the stored reply and the format kept with it, whatever its command and parameters, and
nothing else changes (R138). -/
def Obligations.RetryIsAnsweredFromStore : Prop :=
  ∀ (code seq : Byte) (ps : List Byte) (s : State) (l : LinkId) (x : Session) (y : StoredReply),
    s.live = true → (s.links[l]).slot = .untaken (code :: seq :: ps) →
    s.sessions[l] = some x → x.stored = some y → y.seq = seq →
    exec (rowOf code l) s = .next (s.handed l y.body y.format)

/-- The parameter lengths of Table 10-6 (R183). A request whose parameter length disagrees with its layout is answered
BAD_REQUEST, with or without a session, and has no other effect (R131 step 2). -/
def Obligations.WrongLengthIsBadRequest : Prop :=
  (∀ ps : List Byte,
    (∀ r ∈ [Request.closeSession, .ping, .linkStatus, .eventStatus], (r.fits ps = true ↔ ps.length = 0)) ∧
    (∀ r ∈ [Request.list, .rescan, .fetch, .cancel, .profileDrop, .profileRead],
      (r.fits ps = true ↔ ps.length = 1)) ∧
    (∀ r ∈ [Request.lookup, .claim, .release, .unbindEvent], (r.fits ps = true ↔ ps.length = 2)) ∧
    (Request.chainConfig.fits ps = true ↔ ps.length = 3) ∧
    (Request.linkFormat.fits ps = true ↔ ps.length = 4) ∧
    (∀ r ∈ [Request.chainReset, .bindEvent], (r.fits ps = true ↔ ps.length = 5)) ∧
    (Request.scanIr.fits ps = true ↔ ps.length = 7) ∧
    (Request.find.fits ps = true ↔ ps.length = 8) ∧
    (Request.openSession.fits ps = true ↔
      ∃ n rest, ps = n :: rest ∧ 1 ≤ n.toNat ∧ n.toNat ≤ 16 ∧ ps.length = 4 + n.toNat) ∧
    (Request.describe.fits ps = true ↔
      ∃ hi lo len n rest, ps = hi :: lo :: len :: n :: rest ∧ n.toNat ≤ 7 ∧ ps.length = 4 + 9 * n.toNat) ∧
    (Request.scanDr.fits ps = true ↔
      ∃ hi lo b1 b0 rest, ps = hi :: lo :: b1 :: b0 :: rest ∧
        ps.length = 8 + (b1.toNat * 256 + b0.toNat + 7) / 8) ∧
    (Request.profileAdd.fits ps = true ↔
      ∃ (head : List Byte) (n : Byte) (rest : List Byte), head.length = 9 ∧ ps = head ++ n :: rest ∧
        ps.length = 10 + 7 * n.toNat)) ∧
  (∀ (r : Request) (s : State) (l : LinkId) (seq : Byte) (ps : List Byte),
    s.asked l r.code seq ps → r.fits ps = false →
    exec (r.row l) s = .next (s.responds l (r.code + 0x80#8) seq .badRequest []))

/-- Without a session every request but OPEN, PING, LINK-FORMAT and LINK-STATUS is answered NO_SESSION and has no
other effect (R131 step 3, R132). -/
def Obligations.ClosedSessionAnswersNoSession : Prop :=
  ∀ (r : Request) (s : State) (l : LinkId) (seq : Byte) (ps : List Byte),
    r ≠ .openSession → r ≠ .ping → r ≠ .linkFormat → r ≠ .linkStatus →
    s.asked l r.code seq ps → r.fits ps = true → s.sessions[l] = none →
    exec (r.row l) s = .next (s.responds l (r.code + 0x80#8) seq .noSession [])

/-- A command code outside Table 10-3 is answered BAD_REQUEST with reply code FFh and has no other effect (R131,
R182). -/
def Obligations.UnknownCommandIsBadRequest : Prop :=
  ∀ (code : Byte) (s : State) (l : LinkId) (seq : Byte) (ps : List Byte),
    (∀ r : Request, r.code ≠ code) → s.asked l code seq ps →
    exec (.unknownCommand l) s = .next (s.responds l 0xFF#8 seq .badRequest [])

/-! ### Session and link requests (R133 to R136, R175, R178) -/

/-- OPEN with good parameters on a CLOSED session opens it and is answered OK with the session number (R133). A push
flag other than on or off, or a watch set beyond C3, is answered BAD_REQUEST whether the session is CLOSED or OPEN
(R133), and good parameters on an OPEN session ALREADY_OPEN (R134); then nothing but the reply changes. -/
def Obligations.OpenOpensSession : Prop :=
  ∀ (s : State) (l : LinkId) (seq period push watch : Byte) (tag : List Byte),
    1 ≤ tag.length → tag.length ≤ 16 →
    s.asked l 0x01#8 seq (BitVec.ofNat 8 tag.length :: (tag ++ [period, push, watch])) →
    ((1 < push.toNat ∨ 15 < watch.toNat) →
      exec (.openSession l) s = .next (s.responds l 0x81#8 seq .badRequest [])) ∧
    (push.toNat ≤ 1 → watch.toNat ≤ 15 →
      (s.isOpen l → exec (.openSession l) s = .next (s.responds l 0x81#8 seq .alreadyOpen [])) ∧
      (s.sessions[l] = none →
        exec (.openSession l) s = .next
          (({ s with
              sessions := s.sessions.set l (some
                { tag := tag, period := period.toNat, timer := if period = 0#8 then none else some 0,
                  push := decide (push = 1#8), watch := watch.setWidth 4, changed := 0#4, stored := none }) } :
            State).responds l 0x81#8 seq .ok [BitVec.ofNat 8 l.val])))

/-- PING is answered OK with part code, revision, link, chain states and session states with host tags, and changes
nothing (R136, 10.4.1). -/
def Obligations.PingReports : Prop :=
  ∀ (s : State) (l : LinkId) (seq : Byte), s.asked l 0x03#8 seq [] →
    exec (.ping l) s = .next (s.responds l 0x83#8 seq .ok
      ([0x04#8, 0x20#8, 0x01#8, BitVec.ofNat 8 l.val] ++
        [(s.chains[0]).phase.byte, (s.chains[1]).phase.byte, (s.chains[2]).phase.byte, (s.chains[3]).phase.byte] ++
        ([0, 1, 2, 3] : List SessionId).flatMap fun k =>
          match s.sessions[k] with
          | some x => 1#8 :: BitVec.ofNat 8 x.tag.length :: x.tag
          | none => [0#8, 0#8]))

/-- LINK-FORMAT with a good format is answered OK with the format it carries, which becomes pending; the format in
force stays (R178). A divisor of 0, a parity byte above 2 or a stop-bit byte other than 1 or 2 is answered
BAD_REQUEST. -/
def Obligations.LinkFormatBecomesPending : Prop :=
  ∀ (s : State) (l : LinkId) (seq hi lo p b : Byte), s.asked l 0x04#8 seq [hi, lo, p, b] →
    (∀ (parity : Parity) (stop : StopBits), (hi ≠ 0#8 ∨ lo ≠ 0#8) → p = parity.byte → b = stop.byte →
      exec (.linkFormat l) s = .next (s.responds l 0x84#8 seq .ok [hi, lo, p, b]
        (some ⟨hi.toNat * 256 + lo.toNat, parity, stop⟩))) ∧
    (((hi = 0#8 ∧ lo = 0#8) ∨ 2 < p.toNat ∨ (b ≠ 1#8 ∧ b ≠ 2#8)) →
      exec (.linkFormat l) s = .next (s.responds l 0x84#8 seq .badRequest []))

/-- LINK-STATUS is answered OK with the cause set, the format in force and the base divisor, and empties the set
before the notice byte is built (R175). -/
def Obligations.LinkStatusEmptiesCauses : Prop :=
  ∀ (s : State) (l : LinkId) (seq : Byte), s.asked l 0x05#8 seq [] →
    exec (.linkStatus l) s = .next
      (({ s with links := s.links.set l { s.links[l] with causes := 0#7 } } : State).responds l 0x85#8 seq .ok
        ([(s.links[l]).causes.setWidth 8] ++
          [BitVec.ofNat 8 ((s.links[l]).format.divisor / 256), BitVec.ofNat 8 (s.links[l]).format.divisor,
            (s.links[l]).format.parity.byte, (s.links[l]).format.stopBits.byte] ++
          [BitVec.ofNat 8 (s.baseDivisor / 256), BitVec.ofNat 8 s.baseDivisor]))

/-! ### Handles, tickets and the directory (R3 to R6, R20 to R23, R40, R57, R59, R60, R68 to R72, R76) -/

/-- A handle names the live record whose slot and generation make it (R3), and a ticket names for a session its own
job whose slot and generation make it (R75, R76). -/
def Obligations.HandlesAndTicketsName : Prop :=
  (∀ (s : State) (h : Nat) (i : SlotId) (r : TargetRecord),
    s.named h = some (i, r) ↔ (s.slots[i]).record = some r ∧ h = (s.slots[i]).generation * 32 + i.val) ∧
  (∀ (s : State) (l : SessionId) (t : Nat) (j : JobId) (x : Job),
    s.ticketed l t = some (j, x) ↔
      (s.jobs[j]).job = some x ∧ t = (s.jobs[j]).generation * 16 + j.val ∧ x.session = some l)

/-- A handle that names no record is answered BAD_HANDLE by every request that carries one, before every other check
of its owning block, and a ticket that names no job for the caller is answered BAD_TICKET; nothing but the reply
changes (R4, R76). -/
def Obligations.StaleReferencesRefused : Prop :=
  ∀ (s : State) (l : LinkId) (seq hi lo : Byte), s.isOpen l →
    (s.named (hi.toNat * 256 + lo.toNat) = none →
      (s.asked l 0x11#8 seq [hi, lo] → exec (.lookup l) s = .next (s.responds l 0x91#8 seq .badHandle [])) ∧
      (s.asked l 0x14#8 seq [hi, lo] → exec (.claim l) s = .next (s.responds l 0x94#8 seq .badHandle [])) ∧
      (s.asked l 0x15#8 seq [hi, lo] → exec (.release l) s = .next (s.responds l 0x95#8 seq .badHandle [])) ∧
      (s.asked l 0x51#8 seq [hi, lo] → exec (.unbindEvent l) s = .next (s.responds l 0xD1#8 seq .badHandle [])) ∧
      (∀ len : Byte, s.asked l 0x13#8 seq [hi, lo, len, 0#8] →
        exec (.describe l) s = .next (s.responds l 0x93#8 seq .badHandle [])) ∧
      (∀ x i1 i0 w1 w0 : Byte, x.toNat ≤ 7 → s.asked l 0x20#8 seq [hi, lo, x, i1, i0, w1, w0] →
        exec (.scanIr l) s = .next (s.responds l 0xA0#8 seq .badHandle [])) ∧
      (∀ (b1 b0 i1 i0 w1 w0 : Byte) (data : List Byte),
        data.length = (b1.toNat * 256 + b0.toNat + 7) / 8 →
        s.asked l 0x21#8 seq (hi :: lo :: b1 :: b0 :: i1 :: i0 :: w1 :: w0 :: data) →
        exec (.scanDr l) s = .next (s.responds l 0xA1#8 seq .badHandle [])) ∧
      (∀ line p m : Byte, p.toNat ≤ 1 → m.toNat ≤ 1 → s.asked l 0x50#8 seq [hi, lo, line, p, m] →
        exec (.bindEvent l) s = .next (s.responds l 0xD0#8 seq .badHandle []))) ∧
    (s.ticketed l hi.toNat = none →
      (s.asked l 0x23#8 seq [hi] → exec (.fetch l) s = .next (s.responds l 0xA3#8 seq .badTicket [])) ∧
      (s.asked l 0x24#8 seq [hi] → exec (.cancel l) s = .next (s.responds l 0xA4#8 seq .badTicket [])))

/-- LIST: a chain number above 3 is answered BAD_REQUEST, a DISABLED chain CHAIN_DISABLED, any other chain OK with its
summary and one entry for each live record in ascending position; the OK removes the chain, and it alone, from the
caller's changed set before the reply is built (R20, R21, R29). -/
def Obligations.ListReportsAndAcknowledges : Prop :=
  ∀ (s : State) (l : LinkId) (seq b : Byte) (y : Session), s.asked l 0x10#8 seq [b] → s.sessions[l] = some y →
    (3 < b.toNat → exec (.list l) s = .next (s.responds l 0x90#8 seq .badRequest [])) ∧
    (∀ c : ChainId, b.toNat = c.val → (s.chains[c]).phase = .disabled →
      exec (.list l) s = .next (s.responds l 0x90#8 seq .chainDisabled [])) ∧
    (∀ c : ChainId, b.toNat = c.val → (s.chains[c]).phase ≠ .disabled →
      ∃ z : BitVec 4,
        (∀ k : ChainId, z.getLsbD k.val = if k = c then false else y.changed.getLsbD k.val) ∧
        exec (.list l) s = .next
          (({ s with sessions := s.sessions.set l (some { y with changed := z }) } : State).responds l 0x90#8 seq .ok
            ([(s.chains[c]).phase.byte, (s.chains[c]).phase.causeByte,
                if (s.chains[c]).profileConflict then 1#8 else 0#8,
                BitVec.ofNat 8 ((s.chains[c]).totalIr / 256), BitVec.ofNat 8 (s.chains[c]).totalIr,
                BitVec.ofNat 8 (s.chainRecords c).length] ++
              (s.chainRecords c).flatMap fun (i, r) =>
                [BitVec.ofNat 8 (s.handleOf i / 256), BitVec.ofNat 8 (s.handleOf i), r.state.byte,
                  match r.state.owner with
                  | some o => BitVec.ofNat 8 o.val
                  | none => 0xFF#8,
                  (if r.irLength.isSome then 1#8 else 0#8) ||| (if r.identity.isSome then 2#8 else 0#8)])))

/-- LOOKUP of a named record is answered OK with the whole record in the encoding of Table 10-7, whoever owns it and
whatever its state, and changes nothing; a handle that names no record is answered BAD_HANDLE (R22, R12). -/
def Obligations.LookupReportsRecord : Prop :=
  ∀ (s : State) (l : LinkId) (seq hi lo : Byte), s.asked l 0x11#8 seq [hi, lo] → s.isOpen l →
    (s.named (hi.toNat * 256 + lo.toNat) = none →
      exec (.lookup l) s = .next (s.responds l 0x91#8 seq .badHandle [])) ∧
    ∀ (i : SlotId) (r : TargetRecord), s.named (hi.toNat * 256 + lo.toNat) = some (i, r) →
    exec (.lookup l) s = .next (s.responds l 0x91#8 seq .ok
      ([hi, lo, BitVec.ofNat 8 r.chain.val, BitVec.ofNat 8 r.position.val, r.state.byte,
          match r.state.owner with
          | some o => BitVec.ofNat 8 o.val
          | none => 0xFF#8,
          (if r.identity.isSome then 1#8 else 0#8) ||| (if r.irLength.isSome then 2#8 else 0#8) |||
            (match s.lineOf (s.handleOf i) with
              | some e => 4#8 ||| (if (s.lines[e]).flag then 8#8 else 0#8)
              | none => 0#8)] ++
        (let code := r.identity.getD 0#32
         [code.extractLsb' 24 8, code.extractLsb' 16 8, code.extractLsb' 8 8, code.extractLsb' 0 8]) ++
        [BitVec.ofNat 8 (r.irLength.getD 0), r.shape.byte, r.resident.byte,
          match s.lineOf (s.handleOf i) with
          | some e => BitVec.ofNat 8 e.val
          | none => 0xFF#8,
          BitVec.ofNat 8 (1 + ((List.finRange 7).filter fun k => (r.entries[k]).isSome).length)] ++
        (0#8 :: CatEntry.bytes ⟨match r.irLength with
          | some n => BitVec.ofNat 32 (2 ^ n - 1)
          | none => 0#32, 1, .inert⟩) ++
        (List.finRange 7).flatMap fun k =>
          match r.entries[k] with
          | some e => BitVec.ofNat 8 (k.val + 1) :: e.bytes
          | none => []))

/-- FIND is answered OK with a count and the handles, in directory order, of the records whose identity code is present
and agrees with the value under the mask, and changes nothing; a record stands in the directory order exactly when it
is live and its chain shows it first at its position (R6, R23). -/
def Obligations.FindReportsMatches : Prop :=
  (∀ (s : State) (l : LinkId) (seq v3 v2 v1 v0 m3 m2 m1 m0 : Byte),
    s.asked l 0x12#8 seq [v3, v2, v1, v0, m3, m2, m1, m0] → s.isOpen l →
    let found := s.directory.filter fun (_, r) =>
      match r.identity with
      | some code => decide (code &&& (m3 ++ m2 ++ m1 ++ m0) = (v3 ++ v2 ++ v1 ++ v0) &&& (m3 ++ m2 ++ m1 ++ m0))
      | none => false
    exec (.find l) s = .next (s.responds l 0x92#8 seq .ok
      (BitVec.ofNat 8 found.length :: found.flatMap fun (i, _) =>
        [BitVec.ofNat 8 (s.handleOf i / 256), BitVec.ofNat 8 (s.handleOf i)]))) ∧
  (∀ s : State,
    (∀ (i : SlotId) (r : TargetRecord), (i, r) ∈ s.directory → (s.slots[i]).record = some r) ∧
    (∀ (i : SlotId) (r : TargetRecord), (s.slots[i]).record = some r →
      ∃ j q, (j, q) ∈ s.directory ∧ q.chain = r.chain ∧ q.position = r.position) ∧
    s.directory.Pairwise fun a b =>
      a.2.chain < b.2.chain ∨ (a.2.chain = b.2.chain ∧ a.2.position < b.2.position))

/-- CLAIM by the state of the chain and then of the record (R57): CHAIN_NOT_READY on a chain that
is RESETTING with destination RETURN, the one RESETTING chain with records, CHAIN_FAULT in FAULT, and on a READY or
SCANNING chain OK with the caller as owner for an AVAILABLE record, OK without effect for the
caller's own, CLAIMED for another session's, RELEASING for a RELEASING one. -/
def Obligations.ClaimAnswers : Prop :=
  ∀ (s : State) (l : LinkId) (seq hi lo : Byte) (i : SlotId) (r : TargetRecord),
    s.asked l 0x14#8 seq [hi, lo] → s.isOpen l → s.named (hi.toNat * 256 + lo.toNat) = some (i, r) →
    ((s.chains[r.chain]).phase = .resetting .returning →
      exec (.claim l) s = .next (s.responds l 0x94#8 seq .chainNotReady [])) ∧
    (∀ k, (s.chains[r.chain]).phase = .fault k →
      exec (.claim l) s = .next (s.responds l 0x94#8 seq .chainFault [])) ∧
    ((s.chains[r.chain]).phase.working →
      (r.state = .available →
        exec (.claim l) s =
          .next (settle s ((s.withRecordState i r (.claimed l)).responds l 0x94#8 seq .ok []))) ∧
      (r.state = .claimed l → exec (.claim l) s = .next (s.responds l 0x94#8 seq .ok [])) ∧
      (∀ o, o ≠ l → r.state = .claimed o → exec (.claim l) s = .next (s.responds l 0x94#8 seq .claimed [])) ∧
      (r.state = .releasing → exec (.claim l) s = .next (s.responds l 0x94#8 seq .releasing [])))

/-- RELEASE: NOT_OWNER to a caller that does not own the record. To the owner OK: its QUEUED jobs of the record are
freed, and the record becomes, without owner, SUSPECT if it was, RELEASING if a job of it runs or its resident class is
HELD, AVAILABLE otherwise; with a HELD resident and no job running a park for it joins the end of its chain's park
list (R59, R60, R63). Nothing else changes. -/
def Obligations.ReleaseEndsClaim : Prop :=
  ∀ (s : State) (l : LinkId) (seq hi lo : Byte) (i : SlotId) (r : TargetRecord),
    s.asked l 0x15#8 seq [hi, lo] → s.isOpen l → s.named (hi.toNat * 256 + lo.toNat) = some (i, r) →
    s.placesDistinct →
    (r.state.owner ≠ some l → exec (.release l) s = .next (s.responds l 0x95#8 seq .notOwner [])) ∧
    (r.state.owner = some l →
      let h := hi.toNat * 256 + lo.toNat
      let frees : JobId → Bool := s.jobFits fun _ x =>
        x.isQueued && decide (x.session = some l) && decide (x.kind.target = some h)
      let runs : Bool := s.anyJob fun _ x => x.isRunning && decide (x.kind.target = some h)
      let held : Bool := decide (r.residentClass = some .held)
      let suspect : Bool := decide (r.state = .suspect (some l))
      exec (.release l) s = .next
        (({ s.withRecordState i r
              (if suspect = true then .suspect none else if (runs || held) = true then .releasing else .available) with
            jobs := Vector.ofFn fun j : JobId =>
              if frees j = true then ⟨if (s.jobs[j]).generation = 15 then 1 else (s.jobs[j]).generation + 1, none⟩
              else s.jobs[j]
            chains := Vector.ofFn fun c : ChainId =>
              { s.chains[c] with
                queue := (s.chains[c]).queue.filter fun j => !frees j
                parks := (s.chains[c]).parks ++
                  if c = r.chain ∧ suspect = false ∧ runs = false ∧ held = true then [h] else [] } } :
          State).responds l 0x95#8 seq .ok []))

/-! ### Descriptions (R40, R68 to R72) -/

/-- The capture-pattern check on IR lengths by position, from position 0 upward: they sum to the total, and at the
start of every segment, which is the sum of the lengths of the higher positions, the pattern reads 1, 0 (R40). -/
def Obligations.PatternCheckCuts : Prop :=
  ∀ (total : Nat) (pattern : List Bool) (lengths : List Nat),
    pattern.length = total → (∀ n ∈ lengths, 2 ≤ n) →
    (patternOk total pattern lengths = true ↔
      lengths.sum = total ∧
      ∀ p, p < lengths.length →
        pattern[(lengths.drop (p + 1)).sum]? = some true ∧
        pattern[(lengths.drop (p + 1)).sum + 1]? = some false)

/-- DESCRIBE's checks in their order (R68, R71): an action that is neither set nor removal, then the handle, then the
chain's state (FAULT, or RESETTING with destination RETURN), the owner, a QUEUED or RUNNING job of the record, a malformed edit list, the length step, and the
catalogue checks against the length as it would stand. A refused DESCRIBE writes nothing. -/
def Obligations.DescribeRefused : Prop :=
  ∀ (s : State) (l : LinkId) (seq hi lo len n : Byte) (rest : List Byte),
    s.isOpen l → n.toNat ≤ 7 → rest.length = 9 * n.toNat → s.asked l 0x13#8 seq (hi :: lo :: len :: n :: rest) →
    let es := editsOf rest
    let h := hi.toNat * 256 + lo.toNat
    let refuses : OutcomeCode → Prop := fun o => exec (.describe l) s = .next (s.responds l 0x93#8 seq o [])
    ((∃ e ∈ es, 1 < e.action.toNat) → refuses .badRequest) ∧
    ((∀ e ∈ es, e.action.toNat ≤ 1) →
      (s.named h = none → refuses .badHandle) ∧
      ∀ (i : SlotId) (r : TargetRecord), s.named h = some (i, r) →
        ((s.chains[r.chain]).phase = .resetting .returning → refuses .chainNotReady) ∧
        (∀ k, (s.chains[r.chain]).phase = .fault k → refuses .chainFault) ∧
        ((s.chains[r.chain]).phase.working →
          (r.state.owner ≠ some l → refuses .notOwner) ∧
          (r.state.owner = some l →
            (s.jobWaits h → refuses .chainBusy) ∧
            (¬ s.jobWaits h →
              (editsIllFormed es → refuses .badEntry) ∧
              (¬ editsIllFormed es →
                (s.lengthPlan i r len.toNat = none → refuses .badLength) ∧
                ∀ p, s.lengthPlan i r len.toNat = some p → es ≠ [] →
                  (p.given.or r.irLength = none → refuses .notDescribed) ∧
                  ∀ m, p.given.or r.irLength = some m →
                    (r.editsItsResident es → refuses .resident) ∧
                    (¬ r.editsItsResident es → r.codesClash m es → refuses .badEntry))))))

/-- DESCRIBE's length step (R69, R70): a given length must equal a known one; for an unknown one it lies in 2 to 32,
the sum with the other known lengths of the chain does not exceed the total, the pattern check passes when no record
is left unknown, and when exactly one is left its deduced length lies in 2 to 32 and passes the pattern check. -/
def Obligations.DescribeLengthStep : Prop :=
  ∀ (s : State) (i : SlotId) (r : TargetRecord) (n : Nat),
    let x := s.chains[r.chain]
    let others := (s.chainRecords r.chain).filter fun (k, _) => decide (k ≠ i)
    let sum := (others.map fun (_, q) => q.irLength.getD 0).sum + n
    let unknown := others.filter fun (_, q) => q.irLength.isNone
    let passes : (SlotId → Nat) → Prop := fun d =>
      patternOk x.totalIr x.capture ((s.chainRecords r.chain).map fun (k, q) =>
        if k = i then n else q.irLength.getD (d k)) = true
    (n = 0 → s.lengthPlan i r n = some ⟨none, none⟩) ∧
    (∀ k, r.irLength = some k → n ≠ 0 →
      (n = k → s.lengthPlan i r n = some ⟨none, none⟩) ∧ (n ≠ k → s.lengthPlan i r n = none)) ∧
    (r.irLength = none → n ≠ 0 →
      (n < 2 ∨ 32 < n ∨ x.totalIr < sum → s.lengthPlan i r n = none) ∧
      (2 ≤ n → n ≤ 32 → sum ≤ x.totalIr →
        (2 ≤ unknown.length → s.lengthPlan i r n = some ⟨some n, none⟩) ∧
        (unknown = [] →
          (passes (fun _ => 0) → s.lengthPlan i r n = some ⟨some n, none⟩) ∧
          (¬ passes (fun _ => 0) → s.lengthPlan i r n = none)) ∧
        (∀ (j : SlotId) (q : TargetRecord), unknown = [(j, q)] →
          let d := x.totalIr - sum
          ((2 ≤ d ∧ d ≤ 32 ∧ passes fun _ => d) → s.lengthPlan i r n = some ⟨some n, some (j, d)⟩) ∧
          (¬ (2 ≤ d ∧ d ≤ 32 ∧ passes fun _ => d) → s.lengthPlan i r n = none))))

/-- A DESCRIBE that passes its checks is answered OK and writes, in one action, the given length with source HOST, the
deduced one with source DEDUCED, and the edits; nothing else of any record changes and no session is told (R68, R72).
-/
def Obligations.DescribeWrites : Prop :=
  ∀ (s : State) (l : LinkId) (seq hi lo len n : Byte) (rest : List Byte) (i : SlotId) (r : TargetRecord)
    (p : LengthPlan),
    s.isOpen l → n.toNat ≤ 7 → rest.length = 9 * n.toNat → s.asked l 0x13#8 seq (hi :: lo :: len :: n :: rest) →
    s.named (hi.toNat * 256 + lo.toNat) = some (i, r) → (s.chains[r.chain]).phase.working →
    r.state.owner = some l → ¬ s.jobWaits (hi.toNat * 256 + lo.toNat) →
    (∀ e ∈ editsOf rest, e.action.toNat ≤ 1) → ¬ editsIllFormed (editsOf rest) →
    s.lengthPlan i r len.toNat = some p →
    (editsOf rest = [] ∨
      ∃ m, p.given.or r.irLength = some m ∧ ¬ r.editsItsResident (editsOf rest) ∧ ¬ r.codesClash m (editsOf rest)) →
    exec (.describe l) s = .next
      (({ s with
          slots := Vector.ofFn fun k : SlotId =>
            ⟨(s.slots[k]).generation, (s.slots[k]).record.map fun q =>
              if k = i then
                { q with
                  shape := match p.given with
                    | some m => .known m .host
                    | none => q.shape
                  entries := Vector.ofFn fun m => r.entryAfter (editsOf rest) m }
              else
                match p.deduced with
                | some (j, d) => if k = j then { q with shape := .known d .deduced } else q
                | none => q⟩ } : State).responds l 0x93#8 seq .ok [])

/-! ### Jobs (R75 to R82, R94, R96) -/

/-- SCAN-IR's checks in their order (R80), then the acceptance of R79. The RESETTING chain that has records is one with
destination RETURN. -/
def Obligations.ScanIrEntersJob : Prop :=
  ∀ (s : State) (l : LinkId) (seq hi lo x i1 i0 w1 w0 : Byte),
    s.isOpen l → s.asked l 0x20#8 seq [hi, lo, x, i1, i0, w1, w0] →
    let h := hi.toNat * 256 + lo.toNat
    let refuses : OutcomeCode → Prop := fun o => exec (.scanIr l) s = .next (s.responds l 0xA0#8 seq o [])
    (7 < x.toNat → refuses .badRequest) ∧
    ∀ k : Fin 8, x.toNat = k.val →
      (s.named h = none → refuses .badHandle) ∧
      ∀ (i : SlotId) (r : TargetRecord), s.named h = some (i, r) →
        ((s.chains[r.chain]).phase = .resetting .returning → refuses .chainNotReady) ∧
        (∀ f, (s.chains[r.chain]).phase = .fault f → refuses .chainFault) ∧
        ((s.chains[r.chain]).phase.working →
          (r.state.owner ≠ some l → refuses .notOwner) ∧
          (r.state.owner = some l →
            (r.irLength = none → refuses .notDescribed) ∧
            (r.irLength ≠ none →
              ((∃ m : Fin 7, k.val = m.val + 1 ∧ r.entries[m] = none) → refuses .badEntry) ∧
              ((k.val = 0 ∨ ∃ m : Fin 7, k.val = m.val + 1 ∧ r.entries[m] ≠ none) →
                s.EntersJob (.scanIr l) l 0xA0#8 seq r.chain (.ir h k) (i1.toNat * 256 + i0.toNat)
                  (w1.toNat * 256 + w0.toNat)))))

/-- SCAN-DR's checks in their order (R81), then the acceptance of R79. The RESETTING chain that has records is one with
destination RETURN. The job's out bit k is bit k mod 8 of out-data
byte k div 8 (R184), and bits above the bit length are ignored. -/
def Obligations.ScanDrEntersJob : Prop :=
  ∀ (s : State) (l : LinkId) (seq hi lo b1 b0 i1 i0 w1 w0 : Byte) (data : List Byte),
    let h := hi.toNat * 256 + lo.toNat
    let bits := b1.toNat * 256 + b0.toNat
    s.isOpen l → data.length = (bits + 7) / 8 →
    s.asked l 0x21#8 seq (hi :: lo :: b1 :: b0 :: i1 :: i0 :: w1 :: w0 :: data) →
    let refuses : OutcomeCode → Prop := fun o => exec (.scanDr l) s = .next (s.responds l 0xA1#8 seq o [])
    (s.named h = none → refuses .badHandle) ∧
    ∀ (i : SlotId) (r : TargetRecord), s.named h = some (i, r) →
      ((s.chains[r.chain]).phase = .resetting .returning → refuses .chainNotReady) ∧
      (∀ f, (s.chains[r.chain]).phase = .fault f → refuses .chainFault) ∧
      ((s.chains[r.chain]).phase.working →
        (r.state.owner ≠ some l → refuses .notOwner) ∧
        (r.state.owner = some l →
          ((bits = 0 ∨ 1024 < bits) → refuses .badLength) ∧
          (1 ≤ bits → bits ≤ 1024 →
            ∃ out : List Bool, out.length = bits ∧
              (∀ k, k < bits → ∃ b, data[k / 8]? = some b ∧ out[k]? = some (b.getLsbD (k % 8))) ∧
              s.EntersJob (.scanDr l) l 0xA1#8 seq r.chain (.dr h out) (i1.toNat * 256 + i0.toNat)
                (w1.toNat * 256 + w0.toNat))))

/-- CHAIN-RESET's checks in their order (R82), then the acceptance of R79. -/
def Obligations.ChainResetEntersJob : Prop :=
  ∀ (s : State) (l : LinkId) (seq b i1 i0 w1 w0 : Byte),
    s.isOpen l → s.asked l 0x22#8 seq [b, i1, i0, w1, w0] →
    let refuses : OutcomeCode → Prop := fun o => exec (.chainReset l) s = .next (s.responds l 0xA2#8 seq o [])
    (3 < b.toNat → refuses .badRequest) ∧
    ∀ c : ChainId, b.toNat = c.val →
      ((s.chains[c]).phase = .disabled → refuses .chainDisabled) ∧
      (∀ d, (s.chains[c]).phase = .resetting d → refuses .chainNotReady) ∧
      (∀ e, (s.chains[c]).phase = .enumerating e → refuses .chainNotReady) ∧
      (∀ f, (s.chains[c]).phase = .fault f → refuses .chainFault) ∧
      ((s.chains[c]).phase.working →
        (s.ownedByOthers l c → refuses .chainBusy) ∧
        (¬ s.ownedByOthers l c → s.EntersJob (.chainReset l) l 0xA2#8 seq c .chainReset (i1.toNat * 256 + i0.toNat)
          (w1.toNat * 256 + w0.toNat)))

/-- FETCH of the caller's own DONE job is answered OK with kind, chain, handle (0 for a chain reset), outcome, count
and captured data, scan bit k in bit k mod 8 of data byte k div 8, and frees the job; of a QUEUED or RUNNING one it is
answered NOT_DONE without effect (R76, R78, R96, R184). -/
def Obligations.FetchFreesDoneJob : Prop :=
  ∀ (s : State) (l : LinkId) (seq t : Byte) (j : JobId) (x : Job),
    s.isOpen l → s.asked l 0x23#8 seq [t] → s.ticketed l t.toNat = some (j, x) →
    (x.isDone = false → exec (.fetch l) s = .next (s.responds l 0xA3#8 seq .notDone [])) ∧
    (∀ (o : JobOutcome) (data : List Bool), x.status = .done o data →
      ∃ bytes : List Byte, bytes.length = (data.length + 7) / 8 ∧
        (∀ k b, bytes[k / 8]? = some b → b.getLsbD (k % 8) = (data[k]?).getD false) ∧
        exec (.fetch l) s = .next ((s.withoutJob j).responds l 0xA3#8 seq .ok
          ([x.kind.byte, BitVec.ofNat 8 x.chain.val,
              BitVec.ofNat 8 (x.kind.target.getD 0 / 256), BitVec.ofNat 8 (x.kind.target.getD 0), o.byte,
              BitVec.ofNat 8 (data.length / 256), BitVec.ofNat 8 data.length] ++ bytes)))

/-- CANCEL of the caller's own QUEUED job is answered OK and frees it; of a RUNNING one IN_PROGRESS and of a DONE one
TOO_LATE, without effect (R94, R78). -/
def Obligations.CancelFreesQueuedJob : Prop :=
  ∀ (s : State) (l : LinkId) (seq t : Byte) (j : JobId) (x : Job),
    s.isOpen l → s.asked l 0x24#8 seq [t] → s.ticketed l t.toNat = some (j, x) →
    (∀ n, x.status = .queued n → exec (.cancel l) s = .next ((s.withoutJob j).responds l 0xA4#8 seq .ok [])) ∧
    (x.status = .running → exec (.cancel l) s = .next (s.responds l 0xA4#8 seq .inProgress [])) ∧
    (∀ o data, x.status = .done o data → exec (.cancel l) s = .next (s.responds l 0xA4#8 seq .tooLate []))

/-! ### Chains and profiles (R46 to R55) -/

/-- RESCAN by the chain's state (R46). Accepted, it retires every live record of the chain, unbinding its line and
giving its slot the next generation, tells the chain's owners and watchers, clears the enumeration values and begins a
test reset with destination ENUMERATE, in one action whose reply already shows the telling (R18, R47). -/
def Obligations.RescanRestartsChain : Prop :=
  ∀ (s : State) (l : LinkId) (seq b : Byte), s.isOpen l → s.asked l 0x30#8 seq [b] →
    let refuses : OutcomeCode → Prop := fun o => exec (.rescan l) s = .next (s.responds l 0xB0#8 seq o [])
    (3 < b.toNat → refuses .badRequest) ∧
    ∀ c : ChainId, b.toNat = c.val →
      let x := s.chains[c]
      let blocked : Prop :=
        (∃ (j : JobId) (y : Job), (s.jobs[j]).job = some y ∧ y.isDone = false ∧ y.chain = c) ∨
          x.parks ≠ [] ∨ s.ownedByOthers l c
      (x.phase = .disabled → refuses .chainDisabled) ∧
      ((∃ d, x.phase = .resetting d) ∨ (∃ e, x.phase = .enumerating e) ∨ (∃ y, x.phase = .scanning y) →
        refuses .chainBusy) ∧
      (x.phase = .ready → blocked → refuses .chainBusy) ∧
      ((∃ k, x.phase = .fault k) ∨ (x.phase = .ready ∧ ¬ blocked) →
        exec (.rescan l) s = .next (settle s
          (({ s with
              sessions := s.told c (s.party c)
              slots := Vector.ofFn fun i : SlotId =>
                match (s.slots[i]).record with
                | some r =>
                  if r.chain = c then
                    ⟨if (s.slots[i]).generation = 2047 then 1 else (s.slots[i]).generation + 1, none⟩
                  else s.slots[i]
                | none => s.slots[i]
              lines := Vector.ofFn fun e : LineId =>
                if s.boundTo e (fun _ r => decide (r.chain = c)) = true then (s.lines[e]).unbound else s.lines[e]
              chains := s.chains.set c
                { x with
                  phase := .resetting .enumerate, targetCount := 0, totalIr := 0, capture := [],
                  profileConflict := false, op := some x.settings } } : State).responds l 0xB0#8 seq .ok [])))

/-- CHAIN-CONFIG's checks in their order, and on acceptance the chain's settings replaced; the operation in progress
keeps its own (R49, R50). -/
def Obligations.ChainConfigReplacesSettings : Prop :=
  ∀ (s : State) (l : LinkId) (seq b d t : Byte), s.isOpen l → s.asked l 0x31#8 seq [b, d, t] →
    let refuses : OutcomeCode → Prop := fun o => exec (.chainConfig l) s = .next (s.responds l 0xB1#8 seq o [])
    ((3 < b.toNat ∨ d = 0#8 ∨ 1 < t.toNat) → refuses .badRequest) ∧
    ∀ c : ChainId, b.toNat = c.val → d ≠ 0#8 → t.toNat ≤ 1 →
      ((s.chains[c]).phase = .disabled → refuses .chainDisabled) ∧
      (∀ k, (s.chains[c]).phase = .fault k → refuses .chainFault) ∧
      ((s.chains[c]).phase ≠ .disabled → (∀ k, (s.chains[c]).phase ≠ .fault k) →
        (s.ownedByOthers l c → refuses .chainBusy) ∧
        (¬ s.ownedByOthers l c →
          exec (.chainConfig l) s = .next
            (({ s with
                chains := s.chains.set c { s.chains[c] with settings := ⟨d.toNat, decide (t = 1#8)⟩ } } :
              State).responds l 0xB1#8 seq .ok [])))

/-- PROFILE-ADD's checks in their order, malformed, duplicate, full, and on success the entry appended and answered
with its index (R51, R53). -/
def Obligations.ProfileAddAppends : Prop :=
  ∀ (s : State) (l : LinkId) (seq v3 v2 v1 v0 m3 m2 m1 m0 len n : Byte) (rest : List Byte),
    s.isOpen l → rest.length = 7 * n.toNat →
    s.asked l 0x40#8 seq ([v3, v2, v1, v0, m3, m2, m1, m0, len, n] ++ rest) →
    let value : Word32 := v3 ++ v2 ++ v1 ++ v0
    let mask : Word32 := m3 ++ m2 ++ m1 ++ m0
    let es := rawEntriesOf rest
    let malformed : Prop :=
      len.toNat < 2 ∨ 32 < len.toNat ∨ 7 < n.toNat ∨ ¬ (es.map RawEntry.code).Nodup ∨
        ∃ e ∈ es, e.drLength < 1 ∨ 1024 < e.drLength ∨ 1 < e.cls.toNat ∨ 2 ^ len.toNat ≤ e.code.toNat ∨
          e.code = BitVec.ofNat 32 (2 ^ len.toNat - 1)
    let duplicate : Prop := ∃ p ∈ s.profiles, p.mask = mask ∧ p.value &&& mask = value &&& mask
    let refuses : OutcomeCode → Prop := fun o => exec (.profileAdd l) s = .next (s.responds l 0xC0#8 seq o [])
    (malformed → refuses .badEntry) ∧
    (¬ malformed → duplicate → refuses .duplicate) ∧
    (¬ malformed → ¬ duplicate → 16 ≤ s.profiles.length → refuses .tableFull) ∧
    (¬ malformed → ¬ duplicate → s.profiles.length < 16 →
      exec (.profileAdd l) s = .next
        (({ s with
            profiles := s.profiles ++
              [⟨value, mask, len.toNat,
                es.map fun e => ⟨e.code, e.drLength, if e.cls = 0#8 then .inert else .held⟩⟩] } : State).responds
          l 0xC0#8 seq .ok [BitVec.ofNat 8 s.profiles.length]))

/-- PROFILE-DROP removes the entry at its index, the later ones moving up in order, or answers BAD_ENTRY at or beyond
the end (R54). PROFILE-READ is answered OK with the number of entries and the entry at its index, if there is one, and
changes nothing (R55). -/
def Obligations.ProfileDropAndRead : Prop :=
  ∀ (s : State) (l : LinkId) (seq b : Byte), s.isOpen l →
    (s.asked l 0x41#8 seq [b] →
      (s.profiles.length ≤ b.toNat → exec (.profileDrop l) s = .next (s.responds l 0xC1#8 seq .badEntry [])) ∧
      (b.toNat < s.profiles.length →
        exec (.profileDrop l) s = .next
          (({ s with profiles := s.profiles.take b.toNat ++ s.profiles.drop (b.toNat + 1) } : State).responds
            l 0xC1#8 seq .ok []))) ∧
    (s.asked l 0x42#8 seq [b] →
      (s.profiles.length ≤ b.toNat →
        exec (.profileRead l) s = .next
          (s.responds l 0xC2#8 seq .ok [BitVec.ofNat 8 s.profiles.length])) ∧
      (∀ p, s.profiles[b.toNat]? = some p →
        exec (.profileRead l) s = .next
          (s.responds l 0xC2#8 seq .ok
            ([BitVec.ofNat 8 s.profiles.length] ++ u32 p.value ++ u32 p.mask ++
              [BitVec.ofNat 8 p.irLength, BitVec.ofNat 8 p.entries.length] ++
              p.entries.flatMap fun e =>
                u32 e.code ++ [BitVec.ofNat 8 (e.drLength / 256), BitVec.ofNat 8 e.drLength, e.cls.byte]))))

/-! ### Event lines and the tick (R156 to R161, R187) -/

/-- BIND-EVENT's checks in their order; on success the record's other line is unbound and the line takes the record,
polarity and mode with its flag clear, its taken level and candidate kept (R159). -/
def Obligations.BindEventBinds : Prop :=
  ∀ (s : State) (l : LinkId) (seq hi lo b p m : Byte), s.isOpen l → s.asked l 0x50#8 seq [hi, lo, b, p, m] →
    let h := hi.toNat * 256 + lo.toNat
    let refuses : OutcomeCode → Prop := fun o => exec (.bindEvent l) s = .next (s.responds l 0xD0#8 seq o [])
    ((1 < p.toNat ∨ 1 < m.toNat) → refuses .badRequest) ∧
    (p.toNat ≤ 1 → m.toNat ≤ 1 →
      (s.named h = none → refuses .badHandle) ∧
      ∀ (i : SlotId) (r : TargetRecord), s.named h = some (i, r) →
        (r.state.owner ≠ some l → refuses .notOwner) ∧
        (r.state.owner = some l →
          (7 < b.toNat → refuses .badLine) ∧
          ∀ e : LineId, b.toNat = e.val →
            let taken : Prop := ∃ (k : Handle) (j : SlotId) (q : TargetRecord) (o : SessionId),
              (s.lines[e]).binding = some k ∧ s.named k = some (j, q) ∧ q.state.owner = some o ∧ o ≠ l
            (taken → refuses .lineBound) ∧
            (¬ taken →
              exec (.bindEvent l) s = .next
                (({ s with
                    lines := Vector.ofFn fun k : LineId =>
                      if k = e then
                        { taken := (s.lines[k]).taken, candidate := (s.lines[k]).candidate, binding := some h,
                          polarity := if p = 0#8 then .assertHigh else .assertLow,
                          mode := if m = 0#8 then .assertOnly else .both, flag := false }
                      else if (s.lines[k]).binding = some h then (s.lines[k]).unbound
                      else s.lines[k] } : State).responds l 0xD0#8 seq .ok []))))

/-- UNBIND-EVENT: NOT_OWNER to a caller that does not own the record; to the owner OK, and the record's line, if it
has one, becomes unbound (R160). EVENT-STATUS: OK with an entry for each line bound to a record the caller owns, in
ascending line number, and the flags of just those lines cleared (R161). -/
def Obligations.EventLinesUnbindAndReport : Prop :=
  (∀ (s : State) (l : LinkId) (seq hi lo : Byte) (i : SlotId) (r : TargetRecord),
    s.isOpen l → s.asked l 0x51#8 seq [hi, lo] → s.named (hi.toNat * 256 + lo.toNat) = some (i, r) →
    (r.state.owner ≠ some l → exec (.unbindEvent l) s = .next (s.responds l 0xD1#8 seq .notOwner [])) ∧
    (r.state.owner = some l →
      exec (.unbindEvent l) s = .next
        (({ s with
            lines := Vector.ofFn fun k : LineId =>
              if (s.lines[k]).binding = some (hi.toNat * 256 + lo.toNat) then (s.lines[k]).unbound
              else s.lines[k] } : State).responds l 0xD1#8 seq .ok []))) ∧
  (∀ (s : State) (l : LinkId) (seq : Byte), s.isOpen l → s.asked l 0x52#8 seq [] →
    let mine : LineId → Bool := fun e => s.boundTo e fun _ r => decide (r.state.owner = some l)
    let reported := (List.finRange 8).filter mine
    exec (.eventStatus l) s = .next
      (({ s with
          lines := Vector.ofFn fun e : LineId =>
            if mine e = true then { s.lines[e] with flag := false } else s.lines[e] } : State).responds
        l 0xD2#8 seq .ok
        (BitVec.ofNat 8 reported.length :: reported.flatMap fun e =>
          [BitVec.ofNat 8 e.val, BitVec.ofNat 8 ((s.lines[e]).binding.getD 0 / 256),
            BitVec.ofNat 8 ((s.lines[e]).binding.getD 0), (s.lines[e]).polarity.byte, (s.lines[e]).mode.byte,
            match (s.lines[e]).taken with
            | .unsettled => 2#8
            | .high => if (s.lines[e]).polarity = .assertHigh then 1#8 else 0#8
            | .low => if (s.lines[e]).polarity = .assertLow then 1#8 else 0#8,
            if (s.lines[e]).flag = true then 1#8 else 0#8])))

/-- One tick reaches its three users together (R187; that EVENT_LINE_SAMPLE is the whole tick is log entry 9): every
running keepalive timer and every wait timer of a QUEUED job below its limit counts one (at the limit it waits for its
expiry, log entry 9), and every event line is sampled, bit n of the pins for line En (R157, R158): a level becomes taken
at the second of two agreeing samples that differ from the taken level, without a change the first time after power-on,
and a change sets the flag of a bound line under BOTH or when the line becomes asserted. -/
def Obligations.TickCountsAndSamples : Prop :=
  ∀ (s : State) (pins : BitVec 8), s.live = true → s.tickRunning = true →
    ∃ lines : Vector EventLine 8,
      exec (.eventLineSample pins) s = .next (settle s
        { s with
          sessions := Vector.ofFn fun l : SessionId => (s.sessions[l]).map fun x =>
            { x with timer := x.timer.map fun n => if n < x.period * 1000 then n + 1 else n }
          jobs := Vector.ofFn fun j : JobId =>
            ⟨(s.jobs[j]).generation, (s.jobs[j]).job.map fun x =>
              match x.status with
              | .queued (some n) => { x with status := .queued (some (if n < x.waitLimit then n + 1 else n)) }
              | _ => x⟩
          lines := lines }) ∧
      ∀ e : LineId,
        let v := pins.getLsbD e.val
        let level : TakenLevel := if v = true then .high else .low
        let asserts : Bool := decide (v = decide ((s.lines[e]).polarity = .assertHigh))
        ((s.lines[e]).taken = level → lines[e] = { s.lines[e] with candidate := none }) ∧
        ((s.lines[e]).taken ≠ level → (s.lines[e]).candidate ≠ some v →
          lines[e] = { s.lines[e] with candidate := some v }) ∧
        ((s.lines[e]).taken ≠ level → (s.lines[e]).candidate = some v →
          lines[e] = { s.lines[e] with
            taken := level
            candidate := none
            flag := (s.lines[e]).flag ||
              (decide ((s.lines[e]).taken ≠ .unsettled) && (s.lines[e]).binding.isSome &&
                (decide ((s.lines[e]).mode = .both) || asserts)) })

/-! ### The end of a session and the timers (R90, R98, R135, R140, R142) -/

/-- CLOSE of an OPEN session ends it as R142 gives and is answered OK with notice NONE, not stored (R135). The
keepalive timer at its period ends it without a reply (R140); that the expiry is a command of its own, which takes a
timer that waits at its limit, is the model's choice (log entry 9), and so is that short of it the expiry changes
nothing (log entry 7). -/
def Obligations.SessionEnds : Prop :=
  ∀ (s : State) (l : LinkId),
    (∀ seq : Byte, s.isOpen l → s.asked l 0x02#8 seq [] →
      exec (.closeSession l) s = .next ((s.withoutSession l).handed l (replyBytes 0x82#8 seq .ok 0#8 []) none)) ∧
    (∀ x : Session, s.live = true → s.sessions[l] = some x →
      (x.period ≠ 0 → x.timer = some (x.period * 1000) →
        exec (.keepaliveExpiry l) s = .next (s.withoutSession l)) ∧
      (x.timer ≠ some (x.period * 1000) ∨ x.period = 0 → exec (.keepaliveExpiry l) s = .next s))

/-- A QUEUED job's wait timer at its limit makes it DONE with TIMEOUT and takes it from its chain's queue, the others'
order kept (R90). That the expiry is a command of its own, which takes a timer that waits at its limit, is the model's
choice (log entry 9), and so is that short of it the expiry changes nothing (log entry 7). -/
def Obligations.WaitLimitTimesOut : Prop :=
  ∀ (s : State) (j : JobId) (x : Job) (l : SessionId), s.live = true → (s.jobs[j]).job = some x →
    x.session = some l →
    (x.waitLimit ≠ 0 → x.status = .queued (some x.waitLimit) →
      exec (.waitLimitExpiry j) s = .next (settle s
        { s with
          jobs := s.jobs.set j ⟨(s.jobs[j]).generation, some { x with status := .done .timeout [] }⟩
          chains := s.chains.set x.chain
            { s.chains[x.chain] with queue := (s.chains[x.chain]).queue.filter fun k => decide (k ≠ j) } })) ∧
    (x.status ≠ .queued (some x.waitLimit) ∨ x.waitLimit = 0 → exec (.waitLimitExpiry j) s = .next s)

/-! ### Host links (R148 to R154, R164 to R178, R180) -/

/-- The character receiver's moves between MARK_WAIT, START_WAIT and CHARACTER (R166). A character keeps the format in
force at its start edge. A start bit leaves open whether a running gap timer has stopped, and noise has not stopped it
(R171): it runs on, and where its limit ended meanwhile GAP is latched and the frame abandoned (that this waits for the
noise is log entry 15, that the timer is a mode log entry 6). Each event changes nothing in another receiver state (log
entry 7). -/
def Obligations.ReceiverMoves : Prop :=
  ∀ (s : State) (l : LinkId), s.live = true →
    let x := s.links[l]
    (x.receiver = .markWait →
      exec (.lineAtMarking l) s = .next (s.withLink l { x with receiver := .startWait })) ∧
    (x.receiver ≠ .markWait → exec (.lineAtMarking l) s = .next s) ∧
    (x.receiver = .startWait →
      exec (.startBit l) s = .next (s.withLink l
        { x with
          receiver := .character x.format
          gap := if x.gap = .running then .candidate else x.gap })) ∧
    (x.receiver ≠ .startWait → exec (.startBit l) s = .next s) ∧
    (∀ f, x.receiver = .character f →
      (x.gap ≠ .overdue →
        exec (.startBitNoise l) s = .next (s.withLink l
          { x with
            receiver := .startWait
            gap := if x.gap = .candidate then .running else x.gap })) ∧
      (x.gap = .overdue → x.assembler ≠ .hunt →
        exec (.startBitNoise l) s = .next (settle s (s.withLink l
          { x with receiver := .startWait, causes := x.causes ||| 32#7, assembler := .hunt, gap := .stopped })))) ∧
    ((∀ f, x.receiver ≠ .character f) → exec (.startBitNoise l) s = .next s)

/-- A received character by its samples (R166, R167): with a spacing stop bit it latches FRAMING, abandons the frame
in assembly and leaves the receiver in MARK_WAIT, or in START_WAIT where every sample read spacing; with a marking
stop bit and a wrong parity bit it latches PARITY and abandons the frame. A good one goes to the frame assembler by
R169 and R170: D5h begins a frame in HUNT, any other byte there is ignored, a length byte out of range latches
LENGTH, body and check bytes are kept, and check bytes that disagree latch CHECK. That every sample read spacing is an
operand beside the bits, whichever samples R166 means, is the model's choice (log entry 16). -/
def Obligations.CharacterIsJudged : Prop :=
  ∀ (s : State) (l : LinkId) (c : CharSamples) (f : LinkFormat), s.live = true →
    (s.links[l]).receiver = .character f →
    let x := s.links[l]
    let errs : BitVec 7 → Receiver → Prop := fun bit r =>
      exec (.characterReceived l c) s = .next (settle s (s.withLink l
        { x with receiver := r, causes := x.causes ||| bit, assembler := .hunt, gap := .stopped }))
    let goes : Assembler → Prop := fun a =>
      exec (.characterReceived l c) s = .next (s.withLink l
        { x with receiver := .startWait, assembler := a, gap := .running })
    (c.stop = false → c.allSpacing = false → errs 2#7 .markWait) ∧
    (c.stop = false → c.allSpacing = true → errs 2#7 .startWait) ∧
    (c.stop = true → ¬ parityAgrees f.parity c.data c.parity → errs 1#7 .startWait) ∧
    (c.stop = true → parityAgrees f.parity c.data c.parity →
      (x.assembler = .hunt → c.data = 0xD5#8 → goes .length) ∧
      (x.assembler = .hunt → c.data ≠ 0xD5#8 →
        exec (.characterReceived l c) s = .next (s.withLink l { x with receiver := .startWait })) ∧
      (x.assembler = .length → 2 ≤ c.data.toNat → c.data.toNat ≤ 250 → goes (.body c.data [])) ∧
      (x.assembler = .length → (c.data.toNat < 2 ∨ 250 < c.data.toNat) → errs 8#7 .startWait) ∧
      (∀ len got, x.assembler = .body len got →
        (got.length + 1 ≠ len.toNat → goes (.body len (got ++ [c.data]))) ∧
        (got.length + 1 = len.toNat → goes (.check len (got ++ [c.data]) none))) ∧
      (∀ len got, x.assembler = .check len got none → goes (.check len got (some c.data))) ∧
      (∀ len got high, x.assembler = .check len got (some high) →
        high ++ c.data ≠ crc16 (len :: got) → errs 16#7 .startWait))

/-- Every frame arrives as it was sent (R169, R170, R172, R176, R181): from HUNT in START_WAIT, the good characters of
the frame of any body of 2 to 250 bytes put that body into an EMPTY request slot, or latch OVERRUN where the slot is
HELD; either way the link's keepalive timer restarts (R140) and nothing else changes but the notices queued. -/
def Obligations.FrameArrivesWhole : Prop :=
  ∀ (s : State) (l : LinkId) (body : List Byte), s.live = true →
    (s.links[l]).receiver = .startWait → (s.links[l]).assembler = .hunt → (s.links[l]).gap = .stopped →
    2 ≤ body.length → body.length ≤ 250 →
    let x := s.links[l]
    let run := s.after (arrivals l x.format (sentFrame body))
    (x.slot = .empty →
      run = some { s.withLink l { x with slot := .untaken body } with sessions := s.restarted l }) ∧
    (x.slot ≠ .empty →
      run = some (settle s
        { s.withLink l { x with causes := x.causes ||| 4#7 } with sessions := s.restarted l }))

/-- The gap limit's expiry within a frame latches GAP and abandons the frame (R171); during a candidate start bit it is
left to what the candidate proves to be (log entry 15). A gap expiry with no timer running and a break outside a
character change nothing (log entries 6 and 7: the model's choice). A break resets the link (R168):
frame in assembly, slot, waiting and sent frames, queued NOTICE and pending format go, the base format returns, BREAK
is latched, and the receiver enters MARK_WAIT; the session is not touched. A LINK_FAULT transition may queue a new
NOTICE (R154). -/
def Obligations.GapAndBreakResetLink : Prop :=
  ∀ (s : State) (l : LinkId), s.live = true →
    let x := s.links[l]
    (x.gap = .running → x.assembler ≠ .hunt →
      exec (.gapExpiry l) s = .next (settle s (s.withLink l
        { x with causes := x.causes ||| 32#7, assembler := .hunt, gap := .stopped }))) ∧
    (x.gap = .candidate → x.assembler ≠ .hunt →
      exec (.gapExpiry l) s = .next (s.withLink l { x with gap := .overdue })) ∧
    ((x.gap ≠ .running ∧ x.gap ≠ .candidate) ∨ x.assembler = .hunt → exec (.gapExpiry l) s = .next s) ∧
    (∀ f, x.receiver = .character f →
      exec (.breakTaken l) s = .next (settle s (s.withLink l
        { format := ⟨s.baseDivisor, .none, .one⟩, receiver := .markWait, assembler := .hunt, gap := .stopped,
          slot := .empty, causes := x.causes ||| 64#7, tx := .idle, waiting := none, queuedNotice := false,
          pendingFormat := none }))) ∧
    ((∀ f, x.receiver ≠ .character f) → exec (.breakTaken l) s = .next s)

/-- A reply is sent when the transmitter is IDLE, as its whole frame in the format then in force (R152, R176); at its
last stop bit the transmitter is IDLE, the slot EMPTY, and a pending format takes effect (R172, R178). -/
def Obligations.ReplyIsSent : Prop :=
  ∀ (s : State) (l : LinkId), s.live = true →
    let x := s.links[l]
    (∀ body, x.waiting = some body → x.tx = .idle →
      exec (.replyStart l) s =
        .next (s.withLink l { x with tx := .reply (sentFrame body) x.format, waiting := none })) ∧
    (x.waiting = none ∨ x.tx ≠ .idle → exec (.replyStart l) s = .next s) ∧
    (∀ frame f, x.tx = .reply frame f →
      (∀ g, x.pendingFormat = some g →
        exec (.replyEnd l) s =
          .next (s.withLink l { x with tx := .idle, slot := .empty, format := g, pendingFormat := none })) ∧
      (x.pendingFormat = none →
        exec (.replyEnd l) s = .next (s.withLink l { x with tx := .idle, slot := .empty }))) ∧
    ((∀ frame f, x.tx ≠ .reply frame f) → exec (.replyEnd l) s = .next s)

/-- A queued NOTICE starts when the transmitter is IDLE and no reply waits (R152). It carries F0h and the code of the
highest kind then pending, LINK_FAULT, JOB_DONE, TARGET_EVENT, DIRECTORY_CHANGE in that order, and with none pending
it is dropped (R148, R153). At its last stop bit the transmitter is IDLE (R176). That the start and the end of a NOTICE
change nothing in any other state is the model's choice (log entry 7). -/
def Obligations.NoticeIsSent : Prop :=
  ∀ (s : State) (l : LinkId), s.live = true →
    let x := s.links[l]
    let starts : Byte → Prop := fun code =>
      exec (.noticeStart l) s =
        .next (s.withLink l { x with tx := .notice (sentFrame [0xF0#8, code]) x.format, queuedNotice := false })
    (x.queuedNotice = true → x.tx = .idle → x.waiting = none →
      (s.pends l .linkFault = true → starts 1#8) ∧
      (s.pends l .linkFault = false →
        (s.pends l .jobDone = true → starts 2#8) ∧
        (s.pends l .jobDone = false →
          (s.pends l .targetEvent = true → starts 3#8) ∧
          (s.pends l .targetEvent = false →
            (s.pends l .directoryChange = true → starts 4#8) ∧
            (s.pends l .directoryChange = false →
              exec (.noticeStart l) s = .next (s.withLink l { x with queuedNotice := false })))))) ∧
    (x.queuedNotice = false ∨ x.tx ≠ .idle ∨ x.waiting ≠ none → exec (.noticeStart l) s = .next s) ∧
    (∀ frame f, x.tx = .notice frame f →
      exec (.noticeEnd l) s = .next (s.withLink l { x with tx := .idle })) ∧
    ((∀ frame f, x.tx ≠ .notice frame f) → exec (.noticeEnd l) s = .next s)

/-- What makes each kind pending for a session (R148), and the notice byte of its replies (R149, R132): the code of
the highest kind pending, or 0; for a CLOSED session LINK_FAULT or 0. -/
def Obligations.NoticeKindsPend : Prop :=
  ∀ (s : State) (l : SessionId),
    (s.pends l .linkFault = true ↔ (s.links[l]).causes ≠ 0#7) ∧
    (s.pends l .jobDone = true ↔
      ∃ (j : JobId) (x : Job), (s.jobs[j]).job = some x ∧ x.session = some l ∧ ∃ o data, x.status = .done o data) ∧
    (s.pends l .targetEvent = true ↔
      ∃ (e : LineId) (h : Handle) (i : SlotId) (r : TargetRecord), (s.lines[e]).flag = true ∧
        (s.lines[e]).binding = some h ∧ s.named h = some (i, r) ∧ r.state.owner = some l) ∧
    (s.pends l .directoryChange = true ↔ ∃ x, s.sessions[l] = some x ∧ x.changed ≠ 0#4) ∧
    (s.sessions[l] = none → s.noticeByte l = if (s.links[l]).causes = 0#7 then 0#8 else 1#8) ∧
    (s.isOpen l → s.noticeByte l =
      if s.pends l .linkFault then 1#8
      else if s.pends l .jobDone then 2#8
      else if s.pends l .targetEvent then 3#8
      else if s.pends l .directoryChange then 4#8
      else 0#8)

/-! ### Enumeration (R7, R31 to R43) -/

/-- The end of an enumeration's test reset begins ID_READ (R31). ID_READ reads back what the chain returns (R32): the
items of up to 16 targets, position n − 1 first, and the end marker give each position its identity code; a 17th item
raises TOO_MANY. Shifting stops with the last bit of the marker or of the 17th item, whatever would arrive after it, so
after at most 544 shifts, each driving a 1. That the end of a test reset the chain is not in, and bits that do not end
with the shift that stops the scan, change nothing is the model's choice (log entries 7 and 11). -/
def Obligations.IdentitiesReadBack : Prop :=
  ∀ (s : State) (c : ChainId), s.live = true →
    ((s.chains[c]).phase = .resetting .enumerate →
      exec (.testResetComplete c) s = .next (s.enumerates c .idRead)) ∧
    ((s.chains[c]).phase ≠ .resetting .enumerate → exec (.testResetComplete c) s = .next s) ∧
    ((s.chains[c]).phase = .enumerating .idRead →
      (∀ (ids : List (Option Word32)) (more : List Bool), ids.length ≤ 16 → codeIsItem ids →
        let bits := ids.reverse.flatMap idItem ++ List.replicate 32 true
        EnumStep.idRead.shifts (bits ++ more) = some bits.length ∧
          exec (.idRead c bits) s = .next (s.enumerates c (.irMeasure ids))) ∧
      (∀ (ids : List (Option Word32)) (more : List Bool), ids.length = 17 → codeIsItem ids →
        let bits := ids.reverse.flatMap idItem
        EnumStep.idRead.shifts (bits ++ more) = some bits.length ∧
          exec (.idRead c bits) s = .next (s.enumFaulted c .tooMany)) ∧
      (∀ tdi : List Bool, EnumStep.idRead.shifts tdi ≠ some tdi.length → exec (.idRead c tdi) s = .next s) ∧
      ∀ (tdi : List Bool) (n : Nat), EnumStep.idRead.shifts tdi = some n →
        n ≤ 544 ∧
          ((s.chains[c]).op ≠ none → s.portPeriods c tdi = scanClocked false (List.replicate n true)))

/-- IR_MEASURE (R33): the first 1 at an index k of 512 to 1024 gives the total k − 512 and the first k − 512 returned
bits as the capture pattern, after k + 1 shifts, and IR_SHORT where the total is below two bits a target; no such 1 is
IR_OVERFLOW, after 1025 shifts. The shifts drive 512 zeros and then ones. That bits which do not end with the shift that
stops the scan change nothing is the model's choice (log entry 11). -/
def Obligations.InstructionRegistersMeasured : Prop :=
  ∀ (s : State) (c : ChainId) (ids : List (Option Word32)) (tdi : List Bool), s.live = true →
    (s.chains[c]).phase = .enumerating (.irMeasure ids) →
    let shifts := (EnumStep.irMeasure ids).shifts tdi
    (∀ k, 512 ≤ k → k ≤ 1024 → tdi[k]? = some true → (∀ i, 512 ≤ i → i < k → tdi[i]? = some false) →
      shifts = some (k + 1) ∧
      (tdi.length = k + 1 →
        (2 * ids.length ≤ k - 512 →
          exec (.irMeasure c tdi) s = .next (s.enumerates c (.bypassCount ids (k - 512) (tdi.take (k - 512))))) ∧
        (k - 512 < 2 * ids.length → exec (.irMeasure c tdi) s = .next (s.enumFaulted c .irShort)))) ∧
    ((∀ i, 512 ≤ i → i ≤ 1024 → tdi[i]? = some false) →
      shifts = some 1025 ∧
      (tdi.length = 1025 → exec (.irMeasure c tdi) s = .next (s.enumFaulted c .irOverflow))) ∧
    (shifts ≠ some tdi.length → exec (.irMeasure c tdi) s = .next s) ∧
    ∀ n, shifts = some n → (s.chains[c]).op ≠ none →
      s.portPeriods c tdi = scanClocked true (List.replicate 512 false ++ List.replicate (n - 512) true)

/-- BYPASS_COUNT (R34): shifting stops at the first 1, or at a 0 at index n, and drives ones. The count agrees when the
first 1 arrives at index n and, for n = 0, the total is 0 too; otherwise, with a 1 before index n, a 0 at index n, or
n = 0 with a nonzero total, it is COUNT_MISMATCH. That bits which do not end with the shift that stops the scan change
nothing is the model's choice (log entry 11). -/
def Obligations.BypassCounted : Prop :=
  ∀ (s : State) (c : ChainId) (ids : List (Option Word32)) (total : Nat) (pattern tdi : List Bool), s.live = true →
    (s.chains[c]).phase = .enumerating (.bypassCount ids total pattern) →
    let shifts := (EnumStep.bypassCount ids total pattern).shifts tdi
    (∀ k, k ≤ ids.length → tdi[k]? = some true → (∀ i, i < k → tdi[i]? = some false) →
      shifts = some (k + 1) ∧
      (tdi.length = k + 1 →
        (k = ids.length → (ids = [] → total = 0) →
          exec (.bypassCount c tdi) s = .next
            { s with
              chains := s.chains.set c
                { s.chains[c] with phase := .enumerating (.closing ids total pattern), op := none } }) ∧
        (k < ids.length ∨ (k = 0 ∧ ids = [] ∧ total ≠ 0) →
          exec (.bypassCount c tdi) s = .next (s.enumFaulted c .countMismatch)))) ∧
    ((∀ i, i ≤ ids.length → tdi[i]? = some false) →
      shifts = some (ids.length + 1) ∧
      (tdi.length = ids.length + 1 →
        exec (.bypassCount c tdi) s = .next (s.enumFaulted c .countMismatch))) ∧
    (shifts ≠ some tdi.length → exec (.bypassCount c tdi) s = .next s) ∧
    ∀ n, shifts = some n →
      n ≤ ids.length + 1 ∧
        ((s.chains[c]).op ≠ none → s.portPeriods c tdi = scanClocked false (List.replicate n true))

/-- The descriptions of a chain's new records (R38 to R41): each identity code proposes the first profile that matches
it; all proposals are dropped and PROFILE_CONFLICT set when their lengths exceed the total, or when every record has
one and they do not sum to it or fail the pattern check; then deduction may give one missing length. -/
def Obligations.ProfilesAreShapeChecked : Prop :=
  ∀ (table : List Profile) (ids : List (Option Word32)) (total : Nat) (pattern : List Bool),
    let found : List (Option Profile) := ids.map fun code => table.find? fun x =>
      match code with
      | some w => decide (w &&& x.mask = x.value &&& x.mask)
      | none => false
    let lengths := found.map fun x => (x.map Profile.irLength).getD 0
    let inconsistent : Prop :=
      total < lengths.sum ∨ ((∀ x ∈ found, x ≠ none) ∧ patternOk total pattern lengths = false)
    let blank : Description := ⟨.unknown, Vector.replicate 7 none⟩
    (inconsistent →
      (describeNew table ids total pattern).2 = true ∧
      completes total pattern (ids.map fun _ => blank) (describeNew table ids total pattern).1) ∧
    (¬ inconsistent →
      (describeNew table ids total pattern).2 = false ∧
      completes total pattern
        (found.map fun x =>
          match x with
          | some y => ⟨.known y.irLength .profile, Vector.ofFn fun k => y.entries[k.val]?⟩
          | none => blank)
        (describeNew table ids total pattern).1)

/-- The closing action, taken whole (R7, R35, R42, R43): with fewer FREE slots than targets it ends in FAULT with
DIRECTORY_FULL and no slot taken; otherwise the target of position p gets a record in the p-th lowest FREE slot,
AVAILABLE, with its identity code and description, resident index 0 and the slot's generation, every other slot is
kept, the chain is READY with the measured values and empty queue and park list, and its watchers are told. With no
target it becomes the empty READY chain. -/
def Obligations.ClosingActionAllocates : Prop :=
  ∀ (s : State) (c : ChainId) (ids : List (Option Word32)) (total : Nat) (pattern : List Bool), s.live = true →
    (s.chains[c]).phase = .enumerating (.closing ids total pattern) →
    let free : SlotId → Bool := fun i => (s.slots[i]).record.isNone
    let rank : SlotId → Nat := fun i => ((List.finRange 32).filter fun j => decide (j < i) && free j).length
    let found := describeNew s.profiles ids total pattern
    (((List.finRange 32).filter free).length < ids.length →
      exec (.closingAction c) s = .next (s.enumFaulted c .directoryFull)) ∧
    (ids.length ≤ ((List.finRange 32).filter free).length → ids.length ≤ 16 →
      ∃ slots : Vector RecordSlot 32,
        exec (.closingAction c) s = .next (settle s
          { s with
            slots := slots
            sessions := s.told c (s.watches c)
            chains := s.chains.set c
              { s.chains[c] with
                phase := .ready, op := none, targetCount := ids.length, totalIr := total, capture := pattern,
                profileConflict := found.2, queue := [], parks := [] } }) ∧
        ∀ i : SlotId,
          (free i = false ∨ ids.length ≤ rank i → slots[i] = s.slots[i]) ∧
          (∀ code d, free i = true → ids[rank i]? = some code → found.1[rank i]? = some d →
            slots[i] = ⟨(s.slots[i]).generation, some
              { chain := c, position := Fin.ofNat 16 (rank i), state := .available, identity := code,
                shape := d.shape, entries := d.entries, resident := .index 0 }⟩))

/-! ### Grants and scans (R16, R19, R61, R63, R64, R84 to R92, R100 to R118) -/

/-- GRANT on a READY chain (R85, R87, R88). The oldest park entry comes first, as an IR scan of entry 0 (R63, R106);
otherwise the oldest QUEUED job that may be granted (R86) becomes RUNNING at the head of its queue with its scan
composed from the directory (R101, R105, R107, R123). A selected DR job whose bit length is not its target's resident
DR length becomes DONE with LENGTH_MISMATCH instead, and the selection goes on in the same grant. Where no QUEUED job
may be granted, and on a chain that is not READY, nothing happens. -/
def Obligations.GrantTakesWork : Prop :=
  ∀ (s : State) (c : ChainId), s.live = true →
    let x := s.chains[c]
    (x.phase = .ready →
      (∀ (h : Handle) (rest : List Handle) (i : SlotId) (r : TargetRecord), x.parks = h :: rest →
        s.named h = some (i, r) →
        exec (.grant c) s = .next
          (({ s with chains := s.chains.set c { x with parks := rest } } : State).scans c
            (s.irScan c (.park h) r.position 0 0))) ∧
      (∀ (j : JobId) (y : Job), x.parks = [] → s.oldestGrantable c j y →
        (s.lengthFits y →
          let runs : Scan → Prop := fun z => exec (.grant c) s = .next
            (({ s with
                jobs := s.jobs.set j ⟨(s.jobs[j]).generation, some { y with status := .running }⟩
                chains := s.chains.set c
                  { x with queue := j :: x.queue.filter fun k => decide (k ≠ j) } } : State).scans c z)
          (∀ h m i r, y.kind = .ir h m → s.named h = some (i, r) →
            runs (s.irScan c (.job j) r.position m y.idle)) ∧
          (∀ h out i r, y.kind = .dr h out → s.named h = some (i, r) →
            runs (s.drScan c (.job j) r.position out y.idle)) ∧
          (y.kind = .chainReset → runs (s.resetScan c j y.idle))) ∧
        (¬ s.lengthFits y → y.session ≠ none →
          ∃ v, exec (.grant c)
              { s with
                jobs := s.jobs.set j ⟨(s.jobs[j]).generation, some { y with status := .done .lengthMismatch [] }⟩
                chains := s.chains.set c { x with queue := x.queue.filter fun k => decide (k ≠ j) } } = .next v ∧
            exec (.grant c) s = .next (settle s v))) ∧
      (x.parks = [] → (∀ j y, ¬ s.oldestGrantable c j y) → exec (.grant c) s = .next s)) ∧
    (x.phase ≠ .ready → exec (.grant c) s = .next s)

/-- The law of R86, in every state: a step that begins a DR scan leaves every live record of the chain other than the
scan's target with an INERT resident class, and the scan's data is as long as its target's resident DR length. -/
def Obligations.DrScansAreSafe : Prop :=
  ∀ (s t : State) (i : Instr) (c : ChainId) (x : Scan),
    exec i s = .next t → (t.chains[c]).phase = .scanning x → x.kind = .dr → (s.chains[c]).phase ≠ .scanning x →
    ∃ (j : JobId) (y : Job) (h : Handle) (out : List Bool), x.source = .job j ∧ (t.jobs[j]).job = some y ∧
      y.status = .running ∧ y.kind = .dr h out ∧ t.lengthFits y ∧
      ∀ (k : SlotId) (r : TargetRecord), (t.slots[k]).record = some r → r.chain = c → t.handleOf k ≠ h →
        r.residentClass = some .inert

/-- The order of bits on a chain (R104, R108): out bit offset(p) + k is bit k of the segment of position p, where
offset(p) is the sum of the lengths of the higher positions, and returned bits cut by the same offsets are the captured
segments, the addressed one the scan's result. -/
def Obligations.ScanBitsAreOrdered : Prop :=
  ∀ (x : Scan),
    (∀ (p : Nat) (g : Segment) (k : Nat), x.segments[p]? = some g → k < g.out.length →
      x.outBits[((x.segments.drop (p + 1)).map fun a => a.out.length).sum + k]? = g.out[k]?) ∧
    x.outBits.length = x.total ∧
    (∀ (caps : List (List Bool)) (tdi : List Bool), x.returns caps tdi →
      tdi.length = x.total ∧ (x.clock tdi).captured = caps ∧
      ((x.clock tdi).echoPasses = true ↔ x.checks caps) ∧
      ∀ p b, x.addressed = some p → caps[p.val]? = some b → (x.clock tdi).result = b)

/-- SCAN_COMPLETION with a passing echo check (R110, R111, R113): an IR scan writes its residents (R16); the release
decision on the addressed record is taken from the resident then held (R61), or a park ends (R64); the job is DONE with
OK and the captured bits of its target, an orphan freed (R91, R108); the chain is READY. -/
def Obligations.ScanCompletes : Prop :=
  ∀ (s : State) (c : ChainId) (x : Scan) (caps : List (List Bool)) (tdi : List Bool) (p : Fin 16) (i : SlotId)
    (r : TargetRecord) (h : Handle), s.live = true →
    (s.chains[c]).phase = .scanning x → x.returns caps tdi → x.checks caps → x.addressed = some p →
    s.named h = some (i, r) → r.chain = c →
    let data := (caps[p.val]?).getD []
    (∀ (j : JobId) (y : Job) (m : Fin 8), x.source = .job j → x.kind = .ir → (s.jobs[j]).job = some y →
      y.kind = .ir h m →
      exec (.scanCompletion c tdi) s = .next (settle s
        (((s.loaded c i m).decided c i { r with resident := .index m }).jobEnds c j data))) ∧
    (∀ (j : JobId) (y : Job) (out : List Bool), x.source = .job j → x.kind = .dr → (s.jobs[j]).job = some y →
      y.kind = .dr h out →
      exec (.scanCompletion c tdi) s = .next (settle s ((s.decided c i r).jobEnds c j data))) ∧
    (x.source = .park h → x.kind = .ir →
      exec (.scanCompletion c tdi) s = .next
        (let t := s.loaded c i 0
         { t.withRecordState i { r with resident := .index 0 }
              (if r.state = .releasing then .available else r.state) with
            chains := s.chains.set c { s.chains[c] with phase := .ready, op := none } }))

/-- SCAN_COMPLETION with a failed echo check (R114, R117): FAULT with cause CHECK; every job of the queue, the running
one included, DONE with CHAIN_FAULT and no data, an orphan freed (R92); every live record SUSPECT with resident UNKNOWN,
owners of CLAIMED records kept (R19); queue and park list empty; owners and watchers told (R118); all else kept. -/
def Obligations.ScanFaults : Prop :=
  ∀ (s : State) (c : ChainId) (x : Scan) (caps : List (List Bool)) (tdi : List Bool), s.live = true →
    (s.chains[c]).phase = .scanning x → x.kind ≠ .reset → x.returns caps tdi → ¬ x.checks caps →
    exec (.scanCompletion c tdi) s = .next (settle s
      { s with
        jobs := Vector.ofFn fun j : JobId =>
          if j ∈ (s.chains[c]).queue then (s.jobs[j]).ended .chainFault [] else s.jobs[j]
        slots := Vector.ofFn fun k : SlotId => ⟨(s.slots[k]).generation, (s.slots[k]).record.map fun q =>
          if q.chain = c then { q with state := .suspect q.state.owner, resident := .unknown } else q⟩
        chains := s.chains.set c
          { s.chains[c] with phase := .fault .check, op := none, queue := [], parks := [] }
        sessions := s.told c (s.party c) })

/-- CHAIN_RESET_COMPLETION: every record of the chain takes RESET_DEFAULT, RELEASING ones become AVAILABLE, the park
list is emptied, the job is DONE with OK and no data or freed as an orphan, and the chain is READY (R124). RETURN_COMPLETION
does the same to the records of a returning chain, which becomes READY with empty queue and park list, and raises no
notice (R128); that it changes nothing on any other chain is the model's choice (log entry 7). -/
def Obligations.TestResetsComplete : Prop :=
  ∀ (s : State) (c : ChainId), s.live = true →
    (∀ (x : Scan) (j : JobId), (s.chains[c]).phase = .scanning x → x.kind = .reset → x.source = .job j →
      exec (.chainResetCompletion c) s = .next (settle s
        (({ s with
            slots := s.resetSlots c
            chains := s.chains.set c { s.chains[c] with parks := [] } } : State).jobEnds c j []))) ∧
    ((s.chains[c]).phase = .resetting .returning →
      exec (.returnCompletion c) s = .next
        { s with
          slots := s.resetSlots c
          chains := s.chains.set c { s.chains[c] with phase := .ready, op := none, queue := [], parks := [] } }) ∧
    ((s.chains[c]).phase ≠ .resetting .returning → exec (.returnCompletion c) s = .next s)

/-! ### Power-on and warm reset (R29, R45, R67, R99, R126, R127, R143, R157, R165, R180, R186, R188) -/

/-- POWER_ON discards all state and begins the internal reset; at its end the straps fix the base divisor and which
chains are enabled, and every table takes its power-on value (R186, R2, R29, R51, R75, R130, R156, R164, R165). With
RESET_N high power-on completes and each enabled chain begins its first test reset; with RESET_N low the part is in the
asserted condition. That sessions, slots, jobs and profiles stand at those values in the internal reset already is the
model's reading (log entry 4), and that POWER_ON keeps the queue its choice (log entry 1). -/
def Obligations.PowerOnValues : Prop :=
  ∀ (s : State),
    (∃ t, exec .powerOn s = .next t ∧ t.power = .internalReset ∧ t.pending = s.pending ∧
      (∀ l : SessionId, t.sessions[l] = none) ∧ (∀ i : SlotId, t.slots[i] = ⟨1, none⟩) ∧
      (∀ j : JobId, t.jobs[j] = ⟨1, none⟩) ∧ t.profiles = []) ∧
    ∀ (straps : Straps) (high : Bool), s.power = .internalReset →
      exec (.internalResetEnd straps high) s = .next
        { power := .operating
          resetLow := !high
          straps := straps
          tickRunning := high
          links := Vector.ofFn fun _ =>
            { format := ⟨if straps.baudsel = 0#2 then 120 else if straps.baudsel = 1#2 then 30
                else if straps.baudsel = 2#2 then 10 else 5, .none, .one⟩
              receiver := .markWait, assembler := .hunt, gap := .stopped, slot := .empty, causes := 0#7, tx := .idle,
              waiting := none, queuedNotice := false, pendingFormat := none }
          sessions := Vector.ofFn fun _ => none
          slots := Vector.ofFn fun _ => ⟨1, none⟩
          profiles := []
          jobs := Vector.ofFn fun _ => ⟨1, none⟩
          chains := Vector.ofFn fun c : ChainId =>
            { phase := if straps.chainEn.getLsbD c.val = true then .resetting .enumerate else .disabled
              targetCount := 0, totalIr := 0, capture := [], profileConflict := false, settings := ⟨8, true⟩
              op := if straps.chainEn.getLsbD c.val = true ∧ high = true then some ⟨8, true⟩ else none
              queue := [], parks := [] }
          lines := Vector.ofFn fun _ =>
            { taken := .unsettled, candidate := none, binding := none, polarity := .assertHigh, mode := .assertOnly,
              flag := false }
          pending := s.pending }

/-- The assertion of RESET_N, one event at every block (R188): sessions end (R143); jobs are freed (R99); owners are
cleared and records take their states by their chains' (R67); chains act by their states, keeping settings, cause and
enumeration values (R126, R45); on a READY chain the park list has an entry for each RELEASING record in ascending
position and on every other it is empty (R67); candidates and flags of the lines are cleared (R157); every link is at its
power-on values (R180). Profiles, descriptions, generations, bindings and straps are kept. -/
def Obligations.WarmReset : Prop :=
  ∀ s : State, s.live = true →
    exec .resetNAssert s = .next
      { s with
        resetLow := true
        links := Vector.ofFn fun _ =>
          { format := ⟨s.baseDivisor, .none, .one⟩, receiver := .markWait, assembler := .hunt, gap := .stopped,
            slot := .empty, causes := 0#7, tx := .idle, waiting := none, queuedNotice := false,
            pendingFormat := none }
        sessions := Vector.ofFn fun _ => none
        jobs := Vector.ofFn fun j : JobId =>
          if (s.jobs[j]).job = none then s.jobs[j]
          else ⟨if (s.jobs[j]).generation = 15 then 1 else (s.jobs[j]).generation + 1, none⟩
        slots := Vector.ofFn fun i : SlotId => ⟨(s.slots[i]).generation, (s.slots[i]).record.map fun r =>
          { r with state := r.afterReset (s.chains[r.chain]).phase }⟩
        chains := Vector.ofFn fun c : ChainId =>
          { s.chains[c] with
            phase := (s.chains[c]).phase.afterReset, op := none, queue := []
            parks :=
              if (s.chains[c]).phase = .ready then
                ((s.chainRecords c).filter fun (_, r) => decide (r.afterReset .ready = .releasing)).map
                  fun (i, _) => s.handleOf i
              else [] }
        lines := Vector.ofFn fun e : LineId => { s.lines[e] with candidate := none, flag := false } }

/-- While the part is in its internal reset or RESET_N is asserted, only POWER_ON, the end of the internal reset and the
release of RESET_N have any effect (R186, R188). At the release each chain that is RESETTING begins its test reset, with
the settings in force, every other chain stays as it is (R127), and the tick generator runs (R187). -/
def Obligations.ResetIsReleased : Prop :=
  ∀ s : State,
    (∀ i : Instr, s.live = false → i ≠ .powerOn → (∀ straps high, i ≠ .internalResetEnd straps high) →
      i ≠ .resetNRelease → exec i s = .next s) ∧
    (s.power = .operating → s.resetLow = true →
      exec .resetNRelease s = .next
        { s with
          resetLow := false
          tickRunning := true
          chains := Vector.ofFn fun c : ChainId =>
            match (s.chains[c]).phase with
            | .resetting _ => { s.chains[c] with op := some (s.chains[c]).settings }
            | _ => s.chains[c] }) ∧
    (s.power = .internalReset ∨ s.resetLow = false → exec .resetNRelease s = .next s) ∧
    (∀ straps high, s.power = .operating → exec (.internalResetEnd straps high) s = .next s)

/-! ### Whole-machine rules -/

/-- A NOTICE is queued exactly on a transition (R150, R151): whatever the event, on the link of a session that is OPEN
throughout it with push on, a kind that passes from not pending to pending leaves a NOTICE queued; and a NOTICE that was
not queued before is queued by nothing else. -/
def Obligations.NoticesFollowTransitions : Prop :=
  ∀ (i : Instr) (s t : State) (l : LinkId), exec i s = .next t →
    (∀ (x y : Session) (k : NoticeKind), s.sessions[l] = some x → t.sessions[l] = some y → y.push = true →
      s.pends l k = false → t.pends l k = true → (t.links[l]).queuedNotice = true) ∧
    ((s.links[l]).queuedNotice = false → (t.links[l]).queuedNotice = true →
      s.isOpen l ∧ (∃ y, t.sessions[l] = some y ∧ y.push = true) ∧
        ∃ k : NoticeKind, s.pends l k = false ∧ t.pends l k = true)

/-- No request of one session but RESCAN reaches what another owns, save an IR length that deduction gives (R9, R56, R59,
R76, R159; RESCAN of a chain in FAULT retires the records of every owner, R46, and a DESCRIBE of another record of the
chain may leave one length to deduce, R70): the other session, its jobs, and the lines bound to its records stay as they are, and each record
it owns keeps its handle, state, catalogue and resident, and its IR length where it is known. -/
def Obligations.RequestsRespectOwners : Prop :=
  ∀ (q : Request) (s t : State) (l o : LinkId), q ≠ .rescan → o ≠ l → exec (q.row l) s = .next t →
    t.sessions[o] = s.sessions[o] ∧
    (∀ (j : JobId) (y : Job), (s.jobs[j]).job = some y → y.session = some o → t.jobs[j] = s.jobs[j]) ∧
    ∀ (i : SlotId) (r : TargetRecord), (s.slots[i]).record = some r → r.state.owner = some o →
      t.handleOf i = s.handleOf i ∧
      (∃ r', (t.slots[i]).record = some r' ∧ r'.state = r.state ∧ r'.entries = r.entries ∧
        r'.resident = r.resident ∧ (r.shape ≠ .unknown → r' = r)) ∧
      ∀ e : LineId, (s.lines[e]).binding = some (s.handleOf i) → t.lines[e] = s.lines[e]

/-- Every step keeps the laws of the host links, in every state: a taken frame has its one reply waiting or in
transmission (R172, R176), a pending format has such a reply (R178), and the frame assembler and the gap timer agree with
the frame in assembly (R169, R171; that the timer is a mode is log entry 6), and the timer is left open just while a
candidate start bit or character is received (R171, log entry 15). -/
def Obligations.LinksKeepTheirLaws : Prop :=
  ∀ s t : State, s.linksLaw → step s = .next t → t.linksLaw

/-- Every step keeps the laws of the tables, in every state: generations in range (R2, R75), SUSPECT, UNKNOWN and FAULT
together and no record on a chain that may have none (R5, R15, R119), one record at a place (R5), owners and sessions of
jobs OPEN (R9, R77), at most four jobs a session (R77), at most 16 targets in an enumeration (R32), the queues holding
just their chains' QUEUED and RUNNING jobs (R77, R84, R119), a job RUNNING exactly while it is scanned (R84, R100), the
targets of QUEUED and RUNNING jobs live records of the jobs' chains, CLAIMED by the jobs' sessions or waiting in
RELEASING (R60, R61, R66, R80, R81), every park entry and park in progress for a live RELEASING record of its chain with
a HELD resident that no such job names, with at most one entry a record (R63, R64), every event line bound to a live
record of its own or at its unbound values (R17, R156), and the tick counting whenever the part operates (R187). -/
def Obligations.TablesKeepTheirLaws : Prop :=
  ∀ s t : State, s.tablesLaw → step s = .next t → t.tablesLaw

/-- The state right after POWER_ON meets the laws that every step keeps. -/
def Obligations.ResetMeetsTheLaws : Prop :=
  State.reset.linksLaw ∧ State.reset.tablesLaw
end

