-- ==== Sys2Proof/Laws/State.lean ====
section
/-! SUPPORT. One lemma per field per update of the state, true by rfl, and the elements of the updated table. Indices
are in the form simp gives them, the number of the link, slot, job, chain or line. -/

namespace Sys2Proof.Machine

variable (s : State)

/-! ### updLink -/

@[simp] theorem State.updLink_power (l : LinkId) (f : Hlu → Hlu) : (s.updLink l f).power = s.power := rfl
@[simp] theorem State.updLink_resetLow (l : LinkId) (f : Hlu → Hlu) : (s.updLink l f).resetLow = s.resetLow := rfl
@[simp] theorem State.updLink_straps (l : LinkId) (f : Hlu → Hlu) : (s.updLink l f).straps = s.straps := rfl
@[simp] theorem State.updLink_tickRunning (l : LinkId) (f : Hlu → Hlu) : (s.updLink l f).tickRunning = s.tickRunning := rfl
@[simp] theorem State.updLink_sessions (l : LinkId) (f : Hlu → Hlu) : (s.updLink l f).sessions = s.sessions := rfl
@[simp] theorem State.updLink_slots (l : LinkId) (f : Hlu → Hlu) : (s.updLink l f).slots = s.slots := rfl
@[simp] theorem State.updLink_profiles (l : LinkId) (f : Hlu → Hlu) : (s.updLink l f).profiles = s.profiles := rfl
@[simp] theorem State.updLink_jobs (l : LinkId) (f : Hlu → Hlu) : (s.updLink l f).jobs = s.jobs := rfl
@[simp] theorem State.updLink_chains (l : LinkId) (f : Hlu → Hlu) : (s.updLink l f).chains = s.chains := rfl
@[simp] theorem State.updLink_lines (l : LinkId) (f : Hlu → Hlu) : (s.updLink l f).lines = s.lines := rfl
@[simp] theorem State.updLink_pending (l : LinkId) (f : Hlu → Hlu) : (s.updLink l f).pending = s.pending := rfl

/-! ### mapLinks -/

@[simp] theorem State.mapLinks_power (f : LinkId → Hlu → Hlu) : (s.mapLinks f).power = s.power := rfl
@[simp] theorem State.mapLinks_resetLow (f : LinkId → Hlu → Hlu) : (s.mapLinks f).resetLow = s.resetLow := rfl
@[simp] theorem State.mapLinks_straps (f : LinkId → Hlu → Hlu) : (s.mapLinks f).straps = s.straps := rfl
@[simp] theorem State.mapLinks_tickRunning (f : LinkId → Hlu → Hlu) : (s.mapLinks f).tickRunning = s.tickRunning := rfl
@[simp] theorem State.mapLinks_sessions (f : LinkId → Hlu → Hlu) : (s.mapLinks f).sessions = s.sessions := rfl
@[simp] theorem State.mapLinks_slots (f : LinkId → Hlu → Hlu) : (s.mapLinks f).slots = s.slots := rfl
@[simp] theorem State.mapLinks_profiles (f : LinkId → Hlu → Hlu) : (s.mapLinks f).profiles = s.profiles := rfl
@[simp] theorem State.mapLinks_jobs (f : LinkId → Hlu → Hlu) : (s.mapLinks f).jobs = s.jobs := rfl
@[simp] theorem State.mapLinks_chains (f : LinkId → Hlu → Hlu) : (s.mapLinks f).chains = s.chains := rfl
@[simp] theorem State.mapLinks_lines (f : LinkId → Hlu → Hlu) : (s.mapLinks f).lines = s.lines := rfl
@[simp] theorem State.mapLinks_pending (f : LinkId → Hlu → Hlu) : (s.mapLinks f).pending = s.pending := rfl

/-! ### setSession -/

@[simp] theorem State.setSession_power (l : SessionId) (x : Option Session) : (s.setSession l x).power = s.power := rfl
@[simp] theorem State.setSession_resetLow (l : SessionId) (x : Option Session) : (s.setSession l x).resetLow = s.resetLow := rfl
@[simp] theorem State.setSession_straps (l : SessionId) (x : Option Session) : (s.setSession l x).straps = s.straps := rfl
@[simp] theorem State.setSession_tickRunning (l : SessionId) (x : Option Session) : (s.setSession l x).tickRunning = s.tickRunning := rfl
@[simp] theorem State.setSession_links (l : SessionId) (x : Option Session) : (s.setSession l x).links = s.links := rfl
@[simp] theorem State.setSession_slots (l : SessionId) (x : Option Session) : (s.setSession l x).slots = s.slots := rfl
@[simp] theorem State.setSession_profiles (l : SessionId) (x : Option Session) : (s.setSession l x).profiles = s.profiles := rfl
@[simp] theorem State.setSession_jobs (l : SessionId) (x : Option Session) : (s.setSession l x).jobs = s.jobs := rfl
@[simp] theorem State.setSession_chains (l : SessionId) (x : Option Session) : (s.setSession l x).chains = s.chains := rfl
@[simp] theorem State.setSession_lines (l : SessionId) (x : Option Session) : (s.setSession l x).lines = s.lines := rfl
@[simp] theorem State.setSession_pending (l : SessionId) (x : Option Session) : (s.setSession l x).pending = s.pending := rfl

/-! ### mapSessions -/

@[simp] theorem State.mapSessions_power (f : SessionId → Session → Session) : (s.mapSessions f).power = s.power := rfl
@[simp] theorem State.mapSessions_resetLow (f : SessionId → Session → Session) : (s.mapSessions f).resetLow = s.resetLow := rfl
@[simp] theorem State.mapSessions_straps (f : SessionId → Session → Session) : (s.mapSessions f).straps = s.straps := rfl
@[simp] theorem State.mapSessions_tickRunning (f : SessionId → Session → Session) : (s.mapSessions f).tickRunning = s.tickRunning := rfl
@[simp] theorem State.mapSessions_links (f : SessionId → Session → Session) : (s.mapSessions f).links = s.links := rfl
@[simp] theorem State.mapSessions_slots (f : SessionId → Session → Session) : (s.mapSessions f).slots = s.slots := rfl
@[simp] theorem State.mapSessions_profiles (f : SessionId → Session → Session) : (s.mapSessions f).profiles = s.profiles := rfl
@[simp] theorem State.mapSessions_jobs (f : SessionId → Session → Session) : (s.mapSessions f).jobs = s.jobs := rfl
@[simp] theorem State.mapSessions_chains (f : SessionId → Session → Session) : (s.mapSessions f).chains = s.chains := rfl
@[simp] theorem State.mapSessions_lines (f : SessionId → Session → Session) : (s.mapSessions f).lines = s.lines := rfl
@[simp] theorem State.mapSessions_pending (f : SessionId → Session → Session) : (s.mapSessions f).pending = s.pending := rfl

/-! ### mapSlots -/

@[simp] theorem State.mapSlots_power (f : SlotId → RecordSlot → RecordSlot) : (s.mapSlots f).power = s.power := by simp only [State.mapSlots]
@[simp] theorem State.mapSlots_resetLow (f : SlotId → RecordSlot → RecordSlot) : (s.mapSlots f).resetLow = s.resetLow := by simp only [State.mapSlots]
@[simp] theorem State.mapSlots_straps (f : SlotId → RecordSlot → RecordSlot) : (s.mapSlots f).straps = s.straps := by simp only [State.mapSlots]
@[simp] theorem State.mapSlots_tickRunning (f : SlotId → RecordSlot → RecordSlot) : (s.mapSlots f).tickRunning = s.tickRunning := by simp only [State.mapSlots]
@[simp] theorem State.mapSlots_links (f : SlotId → RecordSlot → RecordSlot) : (s.mapSlots f).links = s.links := by simp only [State.mapSlots]
@[simp] theorem State.mapSlots_sessions (f : SlotId → RecordSlot → RecordSlot) : (s.mapSlots f).sessions = s.sessions := by simp only [State.mapSlots]
@[simp] theorem State.mapSlots_profiles (f : SlotId → RecordSlot → RecordSlot) : (s.mapSlots f).profiles = s.profiles := by simp only [State.mapSlots]
@[simp] theorem State.mapSlots_jobs (f : SlotId → RecordSlot → RecordSlot) : (s.mapSlots f).jobs = s.jobs := by simp only [State.mapSlots]
@[simp] theorem State.mapSlots_chains (f : SlotId → RecordSlot → RecordSlot) : (s.mapSlots f).chains = s.chains := by simp only [State.mapSlots]
@[simp] theorem State.mapSlots_lines (f : SlotId → RecordSlot → RecordSlot) : (s.mapSlots f).lines = s.lines := by simp only [State.mapSlots]
@[simp] theorem State.mapSlots_pending (f : SlotId → RecordSlot → RecordSlot) : (s.mapSlots f).pending = s.pending := by simp only [State.mapSlots]

/-! ### mapRecords -/

@[simp] theorem State.mapRecords_power (f : SlotId → TargetRecord → TargetRecord) : (s.mapRecords f).power = s.power := by simp only [State.mapRecords, State.mapSlots_power]
@[simp] theorem State.mapRecords_resetLow (f : SlotId → TargetRecord → TargetRecord) : (s.mapRecords f).resetLow = s.resetLow := by simp only [State.mapRecords, State.mapSlots_resetLow]
@[simp] theorem State.mapRecords_straps (f : SlotId → TargetRecord → TargetRecord) : (s.mapRecords f).straps = s.straps := by simp only [State.mapRecords, State.mapSlots_straps]
@[simp] theorem State.mapRecords_tickRunning (f : SlotId → TargetRecord → TargetRecord) : (s.mapRecords f).tickRunning = s.tickRunning := by simp only [State.mapRecords, State.mapSlots_tickRunning]
@[simp] theorem State.mapRecords_links (f : SlotId → TargetRecord → TargetRecord) : (s.mapRecords f).links = s.links := by simp only [State.mapRecords, State.mapSlots_links]
@[simp] theorem State.mapRecords_sessions (f : SlotId → TargetRecord → TargetRecord) : (s.mapRecords f).sessions = s.sessions := by simp only [State.mapRecords, State.mapSlots_sessions]
@[simp] theorem State.mapRecords_profiles (f : SlotId → TargetRecord → TargetRecord) : (s.mapRecords f).profiles = s.profiles := by simp only [State.mapRecords, State.mapSlots_profiles]
@[simp] theorem State.mapRecords_jobs (f : SlotId → TargetRecord → TargetRecord) : (s.mapRecords f).jobs = s.jobs := by simp only [State.mapRecords, State.mapSlots_jobs]
@[simp] theorem State.mapRecords_chains (f : SlotId → TargetRecord → TargetRecord) : (s.mapRecords f).chains = s.chains := by simp only [State.mapRecords, State.mapSlots_chains]
@[simp] theorem State.mapRecords_lines (f : SlotId → TargetRecord → TargetRecord) : (s.mapRecords f).lines = s.lines := by simp only [State.mapRecords, State.mapSlots_lines]
@[simp] theorem State.mapRecords_pending (f : SlotId → TargetRecord → TargetRecord) : (s.mapRecords f).pending = s.pending := by simp only [State.mapRecords, State.mapSlots_pending]

/-! ### updRecord -/

@[simp] theorem State.updRecord_power (i : SlotId) (f : TargetRecord → TargetRecord) : (s.updRecord i f).power = s.power := rfl
@[simp] theorem State.updRecord_resetLow (i : SlotId) (f : TargetRecord → TargetRecord) : (s.updRecord i f).resetLow = s.resetLow := rfl
@[simp] theorem State.updRecord_straps (i : SlotId) (f : TargetRecord → TargetRecord) : (s.updRecord i f).straps = s.straps := rfl
@[simp] theorem State.updRecord_tickRunning (i : SlotId) (f : TargetRecord → TargetRecord) : (s.updRecord i f).tickRunning = s.tickRunning := rfl
@[simp] theorem State.updRecord_links (i : SlotId) (f : TargetRecord → TargetRecord) : (s.updRecord i f).links = s.links := rfl
@[simp] theorem State.updRecord_sessions (i : SlotId) (f : TargetRecord → TargetRecord) : (s.updRecord i f).sessions = s.sessions := rfl
@[simp] theorem State.updRecord_profiles (i : SlotId) (f : TargetRecord → TargetRecord) : (s.updRecord i f).profiles = s.profiles := rfl
@[simp] theorem State.updRecord_jobs (i : SlotId) (f : TargetRecord → TargetRecord) : (s.updRecord i f).jobs = s.jobs := rfl
@[simp] theorem State.updRecord_chains (i : SlotId) (f : TargetRecord → TargetRecord) : (s.updRecord i f).chains = s.chains := rfl
@[simp] theorem State.updRecord_lines (i : SlotId) (f : TargetRecord → TargetRecord) : (s.updRecord i f).lines = s.lines := rfl
@[simp] theorem State.updRecord_pending (i : SlotId) (f : TargetRecord → TargetRecord) : (s.updRecord i f).pending = s.pending := rfl

/-! ### mapJobs -/

@[simp] theorem State.mapJobs_power (f : JobId → JobSlot → JobSlot) : (s.mapJobs f).power = s.power := rfl
@[simp] theorem State.mapJobs_resetLow (f : JobId → JobSlot → JobSlot) : (s.mapJobs f).resetLow = s.resetLow := rfl
@[simp] theorem State.mapJobs_straps (f : JobId → JobSlot → JobSlot) : (s.mapJobs f).straps = s.straps := rfl
@[simp] theorem State.mapJobs_tickRunning (f : JobId → JobSlot → JobSlot) : (s.mapJobs f).tickRunning = s.tickRunning := rfl
@[simp] theorem State.mapJobs_links (f : JobId → JobSlot → JobSlot) : (s.mapJobs f).links = s.links := rfl
@[simp] theorem State.mapJobs_sessions (f : JobId → JobSlot → JobSlot) : (s.mapJobs f).sessions = s.sessions := rfl
@[simp] theorem State.mapJobs_slots (f : JobId → JobSlot → JobSlot) : (s.mapJobs f).slots = s.slots := rfl
@[simp] theorem State.mapJobs_profiles (f : JobId → JobSlot → JobSlot) : (s.mapJobs f).profiles = s.profiles := rfl
@[simp] theorem State.mapJobs_chains (f : JobId → JobSlot → JobSlot) : (s.mapJobs f).chains = s.chains := rfl
@[simp] theorem State.mapJobs_lines (f : JobId → JobSlot → JobSlot) : (s.mapJobs f).lines = s.lines := rfl
@[simp] theorem State.mapJobs_pending (f : JobId → JobSlot → JobSlot) : (s.mapJobs f).pending = s.pending := rfl

/-! ### setJob -/

@[simp] theorem State.setJob_power (j : JobId) (x : Job) : (s.setJob j x).power = s.power := rfl
@[simp] theorem State.setJob_resetLow (j : JobId) (x : Job) : (s.setJob j x).resetLow = s.resetLow := rfl
@[simp] theorem State.setJob_straps (j : JobId) (x : Job) : (s.setJob j x).straps = s.straps := rfl
@[simp] theorem State.setJob_tickRunning (j : JobId) (x : Job) : (s.setJob j x).tickRunning = s.tickRunning := rfl
@[simp] theorem State.setJob_links (j : JobId) (x : Job) : (s.setJob j x).links = s.links := rfl
@[simp] theorem State.setJob_sessions (j : JobId) (x : Job) : (s.setJob j x).sessions = s.sessions := rfl
@[simp] theorem State.setJob_slots (j : JobId) (x : Job) : (s.setJob j x).slots = s.slots := rfl
@[simp] theorem State.setJob_profiles (j : JobId) (x : Job) : (s.setJob j x).profiles = s.profiles := rfl
@[simp] theorem State.setJob_chains (j : JobId) (x : Job) : (s.setJob j x).chains = s.chains := rfl
@[simp] theorem State.setJob_lines (j : JobId) (x : Job) : (s.setJob j x).lines = s.lines := rfl
@[simp] theorem State.setJob_pending (j : JobId) (x : Job) : (s.setJob j x).pending = s.pending := rfl

/-! ### updChain -/

@[simp] theorem State.updChain_power (c : ChainId) (f : Chain → Chain) : (s.updChain c f).power = s.power := rfl
@[simp] theorem State.updChain_resetLow (c : ChainId) (f : Chain → Chain) : (s.updChain c f).resetLow = s.resetLow := rfl
@[simp] theorem State.updChain_straps (c : ChainId) (f : Chain → Chain) : (s.updChain c f).straps = s.straps := rfl
@[simp] theorem State.updChain_tickRunning (c : ChainId) (f : Chain → Chain) : (s.updChain c f).tickRunning = s.tickRunning := rfl
@[simp] theorem State.updChain_links (c : ChainId) (f : Chain → Chain) : (s.updChain c f).links = s.links := rfl
@[simp] theorem State.updChain_sessions (c : ChainId) (f : Chain → Chain) : (s.updChain c f).sessions = s.sessions := rfl
@[simp] theorem State.updChain_slots (c : ChainId) (f : Chain → Chain) : (s.updChain c f).slots = s.slots := rfl
@[simp] theorem State.updChain_profiles (c : ChainId) (f : Chain → Chain) : (s.updChain c f).profiles = s.profiles := rfl
@[simp] theorem State.updChain_jobs (c : ChainId) (f : Chain → Chain) : (s.updChain c f).jobs = s.jobs := rfl
@[simp] theorem State.updChain_lines (c : ChainId) (f : Chain → Chain) : (s.updChain c f).lines = s.lines := rfl
@[simp] theorem State.updChain_pending (c : ChainId) (f : Chain → Chain) : (s.updChain c f).pending = s.pending := rfl

/-! ### mapChains -/

@[simp] theorem State.mapChains_power (f : ChainId → Chain → Chain) : (s.mapChains f).power = s.power := rfl
@[simp] theorem State.mapChains_resetLow (f : ChainId → Chain → Chain) : (s.mapChains f).resetLow = s.resetLow := rfl
@[simp] theorem State.mapChains_straps (f : ChainId → Chain → Chain) : (s.mapChains f).straps = s.straps := rfl
@[simp] theorem State.mapChains_tickRunning (f : ChainId → Chain → Chain) : (s.mapChains f).tickRunning = s.tickRunning := rfl
@[simp] theorem State.mapChains_links (f : ChainId → Chain → Chain) : (s.mapChains f).links = s.links := rfl
@[simp] theorem State.mapChains_sessions (f : ChainId → Chain → Chain) : (s.mapChains f).sessions = s.sessions := rfl
@[simp] theorem State.mapChains_slots (f : ChainId → Chain → Chain) : (s.mapChains f).slots = s.slots := rfl
@[simp] theorem State.mapChains_profiles (f : ChainId → Chain → Chain) : (s.mapChains f).profiles = s.profiles := rfl
@[simp] theorem State.mapChains_jobs (f : ChainId → Chain → Chain) : (s.mapChains f).jobs = s.jobs := rfl
@[simp] theorem State.mapChains_lines (f : ChainId → Chain → Chain) : (s.mapChains f).lines = s.lines := rfl
@[simp] theorem State.mapChains_pending (f : ChainId → Chain → Chain) : (s.mapChains f).pending = s.pending := rfl

/-! ### mapLines -/

@[simp] theorem State.mapLines_power (f : LineId → EventLine → EventLine) : (s.mapLines f).power = s.power := rfl
@[simp] theorem State.mapLines_resetLow (f : LineId → EventLine → EventLine) : (s.mapLines f).resetLow = s.resetLow := rfl
@[simp] theorem State.mapLines_straps (f : LineId → EventLine → EventLine) : (s.mapLines f).straps = s.straps := rfl
@[simp] theorem State.mapLines_tickRunning (f : LineId → EventLine → EventLine) : (s.mapLines f).tickRunning = s.tickRunning := rfl
@[simp] theorem State.mapLines_links (f : LineId → EventLine → EventLine) : (s.mapLines f).links = s.links := rfl
@[simp] theorem State.mapLines_sessions (f : LineId → EventLine → EventLine) : (s.mapLines f).sessions = s.sessions := rfl
@[simp] theorem State.mapLines_slots (f : LineId → EventLine → EventLine) : (s.mapLines f).slots = s.slots := rfl
@[simp] theorem State.mapLines_profiles (f : LineId → EventLine → EventLine) : (s.mapLines f).profiles = s.profiles := rfl
@[simp] theorem State.mapLines_jobs (f : LineId → EventLine → EventLine) : (s.mapLines f).jobs = s.jobs := rfl
@[simp] theorem State.mapLines_chains (f : LineId → EventLine → EventLine) : (s.mapLines f).chains = s.chains := rfl
@[simp] theorem State.mapLines_pending (f : LineId → EventLine → EventLine) : (s.mapLines f).pending = s.pending := rfl

/-! ### Elements -/

@[simp] theorem State.updLink_getElem (l k : LinkId) (f : Hlu → Hlu) :
    (s.updLink l f).links[k.val] = if k = l then f s.links[l.val] else s.links[k.val] := by
  simp only [State.updLink, Vector.getElem_set, Fin.getElem_fin, Fin.ext_iff, eq_comm]

@[simp] theorem State.mapLinks_getElem (k : LinkId) (f : LinkId → Hlu → Hlu) :
    (s.mapLinks f).links[k.val] = f k s.links[k.val] := by
  simp [State.mapLinks]

@[simp] theorem State.setSession_getElem (l k : SessionId) (x : Option Session) :
    (s.setSession l x).sessions[k.val] = if k = l then x else s.sessions[k.val] := by
  simp only [State.setSession, Vector.getElem_set, Fin.ext_iff, eq_comm]

@[simp] theorem State.mapSessions_getElem (k : SessionId) (f : SessionId → Session → Session) :
    (s.mapSessions f).sessions[k.val] = (s.sessions[k.val]).map (f k) := by
  simp [State.mapSessions]

@[simp] theorem State.mapSlots_getElem (k : SlotId) (f : SlotId → RecordSlot → RecordSlot) :
    (s.mapSlots f).slots[k.val] = f k s.slots[k.val] := by
  simp [State.mapSlots]

@[simp] theorem State.mapRecords_getElem (k : SlotId) (f : SlotId → TargetRecord → TargetRecord) :
    (s.mapRecords f).slots[k.val] =
      { s.slots[k.val] with record := (s.slots[k.val]).record.map (f k) } := by
  simp [State.mapRecords]

@[simp] theorem State.updRecord_getElem (i k : SlotId) (f : TargetRecord → TargetRecord) :
    (s.updRecord i f).slots[k.val] =
      if k = i then { s.slots[i.val] with record := (s.slots[i.val]).record.map f } else s.slots[k.val] := by
  simp only [State.updRecord, Vector.getElem_set, Fin.getElem_fin, Fin.ext_iff, eq_comm]

@[simp] theorem State.mapJobs_getElem (k : JobId) (f : JobId → JobSlot → JobSlot) :
    (s.mapJobs f).jobs[k.val] = f k s.jobs[k.val] := by
  simp [State.mapJobs]

@[simp] theorem State.setJob_getElem (j k : JobId) (x : Job) :
    (s.setJob j x).jobs[k.val] =
      if k = j then { s.jobs[j.val] with job := some x } else s.jobs[k.val] := by
  simp only [State.setJob, Vector.getElem_set, Fin.getElem_fin, Fin.ext_iff, eq_comm]

@[simp] theorem State.updChain_getElem (c k : ChainId) (f : Chain → Chain) :
    (s.updChain c f).chains[k.val] = if k = c then f s.chains[c.val] else s.chains[k.val] := by
  simp only [State.updChain, Vector.getElem_set, Fin.getElem_fin, Fin.ext_iff, eq_comm]

@[simp] theorem State.mapChains_getElem (k : ChainId) (f : ChainId → Chain → Chain) :
    (s.mapChains f).chains[k.val] = f k s.chains[k.val] := by
  simp [State.mapChains]

@[simp] theorem State.mapLines_getElem (k : LineId) (f : LineId → EventLine → EventLine) :
    (s.mapLines f).lines[k.val] = f k s.lines[k.val] := by
  simp [State.mapLines]

end Sys2Proof.Machine
end

