-- ==== Sys2Proof/Laws/Blocks.lean ====
section
/-! SUPPORT. What each shared operation leaves alone: one lemma per untouched field; and what a settled event leaves
alone. -/

namespace Sys2Proof.Machine

variable (s : State)

/-! ### freeJobs -/

@[simp] theorem State.freeJobs_power (p : JobId → Job → Bool) : (s.freeJobs p).power = s.power := by simp [State.freeJobs]
@[simp] theorem State.freeJobs_resetLow (p : JobId → Job → Bool) : (s.freeJobs p).resetLow = s.resetLow := by simp [State.freeJobs]
@[simp] theorem State.freeJobs_straps (p : JobId → Job → Bool) : (s.freeJobs p).straps = s.straps := by simp [State.freeJobs]
@[simp] theorem State.freeJobs_tickRunning (p : JobId → Job → Bool) : (s.freeJobs p).tickRunning = s.tickRunning := by simp [State.freeJobs]
@[simp] theorem State.freeJobs_links (p : JobId → Job → Bool) : (s.freeJobs p).links = s.links := by simp [State.freeJobs]
@[simp] theorem State.freeJobs_sessions (p : JobId → Job → Bool) : (s.freeJobs p).sessions = s.sessions := by simp [State.freeJobs]
@[simp] theorem State.freeJobs_slots (p : JobId → Job → Bool) : (s.freeJobs p).slots = s.slots := by simp [State.freeJobs]
@[simp] theorem State.freeJobs_profiles (p : JobId → Job → Bool) : (s.freeJobs p).profiles = s.profiles := by simp [State.freeJobs]
@[simp] theorem State.freeJobs_lines (p : JobId → Job → Bool) : (s.freeJobs p).lines = s.lines := by simp [State.freeJobs]
@[simp] theorem State.freeJobs_pending (p : JobId → Job → Bool) : (s.freeJobs p).pending = s.pending := by simp [State.freeJobs]

/-! ### finishJob -/

@[simp] theorem State.finishJob_power (c : ChainId) (j : JobId) (o : JobOutcome) (data : List Bool) : (s.finishJob c j o data).power = s.power := by simp [State.finishJob]
@[simp] theorem State.finishJob_resetLow (c : ChainId) (j : JobId) (o : JobOutcome) (data : List Bool) : (s.finishJob c j o data).resetLow = s.resetLow := by simp [State.finishJob]
@[simp] theorem State.finishJob_straps (c : ChainId) (j : JobId) (o : JobOutcome) (data : List Bool) : (s.finishJob c j o data).straps = s.straps := by simp [State.finishJob]
@[simp] theorem State.finishJob_tickRunning (c : ChainId) (j : JobId) (o : JobOutcome) (data : List Bool) : (s.finishJob c j o data).tickRunning = s.tickRunning := by simp [State.finishJob]
@[simp] theorem State.finishJob_links (c : ChainId) (j : JobId) (o : JobOutcome) (data : List Bool) : (s.finishJob c j o data).links = s.links := by simp [State.finishJob]
@[simp] theorem State.finishJob_sessions (c : ChainId) (j : JobId) (o : JobOutcome) (data : List Bool) : (s.finishJob c j o data).sessions = s.sessions := by simp [State.finishJob]
@[simp] theorem State.finishJob_slots (c : ChainId) (j : JobId) (o : JobOutcome) (data : List Bool) : (s.finishJob c j o data).slots = s.slots := by simp [State.finishJob]
@[simp] theorem State.finishJob_profiles (c : ChainId) (j : JobId) (o : JobOutcome) (data : List Bool) : (s.finishJob c j o data).profiles = s.profiles := by simp [State.finishJob]
@[simp] theorem State.finishJob_lines (c : ChainId) (j : JobId) (o : JobOutcome) (data : List Bool) : (s.finishJob c j o data).lines = s.lines := by simp [State.finishJob]
@[simp] theorem State.finishJob_pending (c : ChainId) (j : JobId) (o : JobOutcome) (data : List Bool) : (s.finishJob c j o data).pending = s.pending := by simp [State.finishJob]

/-! ### failQueue -/

@[simp] theorem State.failQueue_power (c : ChainId) : (s.failQueue c).power = s.power := by simp [State.failQueue]
@[simp] theorem State.failQueue_resetLow (c : ChainId) : (s.failQueue c).resetLow = s.resetLow := by simp [State.failQueue]
@[simp] theorem State.failQueue_straps (c : ChainId) : (s.failQueue c).straps = s.straps := by simp [State.failQueue]
@[simp] theorem State.failQueue_tickRunning (c : ChainId) : (s.failQueue c).tickRunning = s.tickRunning := by simp [State.failQueue]
@[simp] theorem State.failQueue_links (c : ChainId) : (s.failQueue c).links = s.links := by simp [State.failQueue]
@[simp] theorem State.failQueue_sessions (c : ChainId) : (s.failQueue c).sessions = s.sessions := by simp [State.failQueue]
@[simp] theorem State.failQueue_slots (c : ChainId) : (s.failQueue c).slots = s.slots := by simp [State.failQueue]
@[simp] theorem State.failQueue_profiles (c : ChainId) : (s.failQueue c).profiles = s.profiles := by simp [State.failQueue]
@[simp] theorem State.failQueue_lines (c : ChainId) : (s.failQueue c).lines = s.lines := by simp [State.failQueue]
@[simp] theorem State.failQueue_pending (c : ChainId) : (s.failQueue c).pending = s.pending := by simp [State.failQueue]

/-! ### enterJob -/

@[simp] theorem State.enterJob_power (j : JobId) (l : SessionId) (c : ChainId) (kind : JobKind) (idle wait : Nat) : (s.enterJob j l c kind idle wait).power = s.power := by simp [State.enterJob]
@[simp] theorem State.enterJob_resetLow (j : JobId) (l : SessionId) (c : ChainId) (kind : JobKind) (idle wait : Nat) : (s.enterJob j l c kind idle wait).resetLow = s.resetLow := by simp [State.enterJob]
@[simp] theorem State.enterJob_straps (j : JobId) (l : SessionId) (c : ChainId) (kind : JobKind) (idle wait : Nat) : (s.enterJob j l c kind idle wait).straps = s.straps := by simp [State.enterJob]
@[simp] theorem State.enterJob_tickRunning (j : JobId) (l : SessionId) (c : ChainId) (kind : JobKind) (idle wait : Nat) : (s.enterJob j l c kind idle wait).tickRunning = s.tickRunning := by simp [State.enterJob]
@[simp] theorem State.enterJob_links (j : JobId) (l : SessionId) (c : ChainId) (kind : JobKind) (idle wait : Nat) : (s.enterJob j l c kind idle wait).links = s.links := by simp [State.enterJob]
@[simp] theorem State.enterJob_sessions (j : JobId) (l : SessionId) (c : ChainId) (kind : JobKind) (idle wait : Nat) : (s.enterJob j l c kind idle wait).sessions = s.sessions := by simp [State.enterJob]
@[simp] theorem State.enterJob_slots (j : JobId) (l : SessionId) (c : ChainId) (kind : JobKind) (idle wait : Nat) : (s.enterJob j l c kind idle wait).slots = s.slots := by simp [State.enterJob]
@[simp] theorem State.enterJob_profiles (j : JobId) (l : SessionId) (c : ChainId) (kind : JobKind) (idle wait : Nat) : (s.enterJob j l c kind idle wait).profiles = s.profiles := by simp [State.enterJob]
@[simp] theorem State.enterJob_lines (j : JobId) (l : SessionId) (c : ChainId) (kind : JobKind) (idle wait : Nat) : (s.enterJob j l c kind idle wait).lines = s.lines := by simp [State.enterJob]
@[simp] theorem State.enterJob_pending (j : JobId) (l : SessionId) (c : ChainId) (kind : JobKind) (idle wait : Nat) : (s.enterJob j l c kind idle wait).pending = s.pending := by simp [State.enterJob]

/-! ### releaseRecords -/

@[simp] theorem State.releaseRecords_power (p : SlotId → TargetRecord → Bool) : (s.releaseRecords p).power = s.power := by simp [State.releaseRecords]
@[simp] theorem State.releaseRecords_resetLow (p : SlotId → TargetRecord → Bool) : (s.releaseRecords p).resetLow = s.resetLow := by simp [State.releaseRecords]
@[simp] theorem State.releaseRecords_straps (p : SlotId → TargetRecord → Bool) : (s.releaseRecords p).straps = s.straps := by simp [State.releaseRecords]
@[simp] theorem State.releaseRecords_tickRunning (p : SlotId → TargetRecord → Bool) : (s.releaseRecords p).tickRunning = s.tickRunning := by simp [State.releaseRecords]
@[simp] theorem State.releaseRecords_links (p : SlotId → TargetRecord → Bool) : (s.releaseRecords p).links = s.links := by simp [State.releaseRecords]
@[simp] theorem State.releaseRecords_sessions (p : SlotId → TargetRecord → Bool) : (s.releaseRecords p).sessions = s.sessions := by simp [State.releaseRecords]
@[simp] theorem State.releaseRecords_profiles (p : SlotId → TargetRecord → Bool) : (s.releaseRecords p).profiles = s.profiles := by simp [State.releaseRecords]
@[simp] theorem State.releaseRecords_jobs (p : SlotId → TargetRecord → Bool) : (s.releaseRecords p).jobs = s.jobs := by simp [State.releaseRecords]
@[simp] theorem State.releaseRecords_lines (p : SlotId → TargetRecord → Bool) : (s.releaseRecords p).lines = s.lines := by simp [State.releaseRecords]
@[simp] theorem State.releaseRecords_pending (p : SlotId → TargetRecord → Bool) : (s.releaseRecords p).pending = s.pending := by simp [State.releaseRecords]

/-! ### releaseClaim -/

@[simp] theorem State.releaseClaim_power (l : SessionId) (i : SlotId) : (s.releaseClaim l i).power = s.power := by simp [State.releaseClaim]
@[simp] theorem State.releaseClaim_resetLow (l : SessionId) (i : SlotId) : (s.releaseClaim l i).resetLow = s.resetLow := by simp [State.releaseClaim]
@[simp] theorem State.releaseClaim_straps (l : SessionId) (i : SlotId) : (s.releaseClaim l i).straps = s.straps := by simp [State.releaseClaim]
@[simp] theorem State.releaseClaim_tickRunning (l : SessionId) (i : SlotId) : (s.releaseClaim l i).tickRunning = s.tickRunning := by simp [State.releaseClaim]
@[simp] theorem State.releaseClaim_links (l : SessionId) (i : SlotId) : (s.releaseClaim l i).links = s.links := by simp [State.releaseClaim]
@[simp] theorem State.releaseClaim_sessions (l : SessionId) (i : SlotId) : (s.releaseClaim l i).sessions = s.sessions := by simp [State.releaseClaim]
@[simp] theorem State.releaseClaim_profiles (l : SessionId) (i : SlotId) : (s.releaseClaim l i).profiles = s.profiles := by simp [State.releaseClaim]
@[simp] theorem State.releaseClaim_lines (l : SessionId) (i : SlotId) : (s.releaseClaim l i).lines = s.lines := by simp [State.releaseClaim]
@[simp] theorem State.releaseClaim_pending (l : SessionId) (i : SlotId) : (s.releaseClaim l i).pending = s.pending := by simp [State.releaseClaim]

/-! ### endJobs -/

@[simp] theorem State.endJobs_power (l : SessionId) : (s.endJobs l).power = s.power := by simp [State.endJobs]
@[simp] theorem State.endJobs_resetLow (l : SessionId) : (s.endJobs l).resetLow = s.resetLow := by simp [State.endJobs]
@[simp] theorem State.endJobs_straps (l : SessionId) : (s.endJobs l).straps = s.straps := by simp [State.endJobs]
@[simp] theorem State.endJobs_tickRunning (l : SessionId) : (s.endJobs l).tickRunning = s.tickRunning := by simp [State.endJobs]
@[simp] theorem State.endJobs_links (l : SessionId) : (s.endJobs l).links = s.links := by simp [State.endJobs]
@[simp] theorem State.endJobs_sessions (l : SessionId) : (s.endJobs l).sessions = s.sessions := by simp [State.endJobs]
@[simp] theorem State.endJobs_slots (l : SessionId) : (s.endJobs l).slots = s.slots := by simp [State.endJobs]
@[simp] theorem State.endJobs_profiles (l : SessionId) : (s.endJobs l).profiles = s.profiles := by simp [State.endJobs]
@[simp] theorem State.endJobs_lines (l : SessionId) : (s.endJobs l).lines = s.lines := by simp [State.endJobs]
@[simp] theorem State.endJobs_pending (l : SessionId) : (s.endJobs l).pending = s.pending := by simp [State.endJobs]

/-! ### endSession -/

@[simp] theorem State.endSession_power (l : SessionId) : (s.endSession l).power = s.power := by simp [State.endSession]
@[simp] theorem State.endSession_resetLow (l : SessionId) : (s.endSession l).resetLow = s.resetLow := by simp [State.endSession]
@[simp] theorem State.endSession_straps (l : SessionId) : (s.endSession l).straps = s.straps := by simp [State.endSession]
@[simp] theorem State.endSession_tickRunning (l : SessionId) : (s.endSession l).tickRunning = s.tickRunning := by simp [State.endSession]
@[simp] theorem State.endSession_profiles (l : SessionId) : (s.endSession l).profiles = s.profiles := by simp [State.endSession]
@[simp] theorem State.endSession_lines (l : SessionId) : (s.endSession l).lines = s.lines := by simp [State.endSession]
@[simp] theorem State.endSession_pending (l : SessionId) : (s.endSession l).pending = s.pending := by simp [State.endSession]

/-! ### retire -/

@[simp] theorem State.retire_power (c : ChainId) : (s.retire c).power = s.power := by simp [State.retire]
@[simp] theorem State.retire_resetLow (c : ChainId) : (s.retire c).resetLow = s.resetLow := by simp [State.retire]
@[simp] theorem State.retire_straps (c : ChainId) : (s.retire c).straps = s.straps := by simp [State.retire]
@[simp] theorem State.retire_tickRunning (c : ChainId) : (s.retire c).tickRunning = s.tickRunning := by simp [State.retire]
@[simp] theorem State.retire_links (c : ChainId) : (s.retire c).links = s.links := by simp [State.retire]
@[simp] theorem State.retire_sessions (c : ChainId) : (s.retire c).sessions = s.sessions := by simp [State.retire]
@[simp] theorem State.retire_profiles (c : ChainId) : (s.retire c).profiles = s.profiles := by simp [State.retire]
@[simp] theorem State.retire_jobs (c : ChainId) : (s.retire c).jobs = s.jobs := by simp [State.retire]
@[simp] theorem State.retire_chains (c : ChainId) : (s.retire c).chains = s.chains := by simp [State.retire]
@[simp] theorem State.retire_pending (c : ChainId) : (s.retire c).pending = s.pending := by simp [State.retire]

/-! ### tellParties -/

@[simp] theorem State.tellParties_power (c : ChainId) : (s.tellParties c).power = s.power := by simp [State.tellParties]
@[simp] theorem State.tellParties_resetLow (c : ChainId) : (s.tellParties c).resetLow = s.resetLow := by simp [State.tellParties]
@[simp] theorem State.tellParties_straps (c : ChainId) : (s.tellParties c).straps = s.straps := by simp [State.tellParties]
@[simp] theorem State.tellParties_tickRunning (c : ChainId) : (s.tellParties c).tickRunning = s.tickRunning := by simp [State.tellParties]
@[simp] theorem State.tellParties_links (c : ChainId) : (s.tellParties c).links = s.links := by simp [State.tellParties]
@[simp] theorem State.tellParties_slots (c : ChainId) : (s.tellParties c).slots = s.slots := by simp [State.tellParties]
@[simp] theorem State.tellParties_profiles (c : ChainId) : (s.tellParties c).profiles = s.profiles := by simp [State.tellParties]
@[simp] theorem State.tellParties_jobs (c : ChainId) : (s.tellParties c).jobs = s.jobs := by simp [State.tellParties]
@[simp] theorem State.tellParties_chains (c : ChainId) : (s.tellParties c).chains = s.chains := by simp [State.tellParties]
@[simp] theorem State.tellParties_lines (c : ChainId) : (s.tellParties c).lines = s.lines := by simp [State.tellParties]
@[simp] theorem State.tellParties_pending (c : ChainId) : (s.tellParties c).pending = s.pending := by simp [State.tellParties]

/-! ### tellWatchers -/

@[simp] theorem State.tellWatchers_power (c : ChainId) : (s.tellWatchers c).power = s.power := by simp [State.tellWatchers]
@[simp] theorem State.tellWatchers_resetLow (c : ChainId) : (s.tellWatchers c).resetLow = s.resetLow := by simp [State.tellWatchers]
@[simp] theorem State.tellWatchers_straps (c : ChainId) : (s.tellWatchers c).straps = s.straps := by simp [State.tellWatchers]
@[simp] theorem State.tellWatchers_tickRunning (c : ChainId) : (s.tellWatchers c).tickRunning = s.tickRunning := by simp [State.tellWatchers]
@[simp] theorem State.tellWatchers_links (c : ChainId) : (s.tellWatchers c).links = s.links := by simp [State.tellWatchers]
@[simp] theorem State.tellWatchers_slots (c : ChainId) : (s.tellWatchers c).slots = s.slots := by simp [State.tellWatchers]
@[simp] theorem State.tellWatchers_profiles (c : ChainId) : (s.tellWatchers c).profiles = s.profiles := by simp [State.tellWatchers]
@[simp] theorem State.tellWatchers_jobs (c : ChainId) : (s.tellWatchers c).jobs = s.jobs := by simp [State.tellWatchers]
@[simp] theorem State.tellWatchers_chains (c : ChainId) : (s.tellWatchers c).chains = s.chains := by simp [State.tellWatchers]
@[simp] theorem State.tellWatchers_lines (c : ChainId) : (s.tellWatchers c).lines = s.lines := by simp [State.tellWatchers]
@[simp] theorem State.tellWatchers_pending (c : ChainId) : (s.tellWatchers c).pending = s.pending := by simp [State.tellWatchers]

/-! ### rescanChain -/

@[simp] theorem State.rescanChain_power (c : ChainId) : (s.rescanChain c).power = s.power := by simp [State.rescanChain]
@[simp] theorem State.rescanChain_resetLow (c : ChainId) : (s.rescanChain c).resetLow = s.resetLow := by simp [State.rescanChain]
@[simp] theorem State.rescanChain_straps (c : ChainId) : (s.rescanChain c).straps = s.straps := by simp [State.rescanChain]
@[simp] theorem State.rescanChain_tickRunning (c : ChainId) : (s.rescanChain c).tickRunning = s.tickRunning := by simp [State.rescanChain]
@[simp] theorem State.rescanChain_links (c : ChainId) : (s.rescanChain c).links = s.links := by simp [State.rescanChain]
@[simp] theorem State.rescanChain_profiles (c : ChainId) : (s.rescanChain c).profiles = s.profiles := by simp [State.rescanChain]
@[simp] theorem State.rescanChain_jobs (c : ChainId) : (s.rescanChain c).jobs = s.jobs := by simp [State.rescanChain]
@[simp] theorem State.rescanChain_pending (c : ChainId) : (s.rescanChain c).pending = s.pending := by simp [State.rescanChain]

/-! ### bindLine -/

@[simp] theorem State.bindLine_power (h : Handle) (e : LineId) (p : Polarity) (m : ReportMode) : (s.bindLine h e p m).power = s.power := by simp [State.bindLine]
@[simp] theorem State.bindLine_resetLow (h : Handle) (e : LineId) (p : Polarity) (m : ReportMode) : (s.bindLine h e p m).resetLow = s.resetLow := by simp [State.bindLine]
@[simp] theorem State.bindLine_straps (h : Handle) (e : LineId) (p : Polarity) (m : ReportMode) : (s.bindLine h e p m).straps = s.straps := by simp [State.bindLine]
@[simp] theorem State.bindLine_tickRunning (h : Handle) (e : LineId) (p : Polarity) (m : ReportMode) : (s.bindLine h e p m).tickRunning = s.tickRunning := by simp [State.bindLine]
@[simp] theorem State.bindLine_links (h : Handle) (e : LineId) (p : Polarity) (m : ReportMode) : (s.bindLine h e p m).links = s.links := by simp [State.bindLine]
@[simp] theorem State.bindLine_sessions (h : Handle) (e : LineId) (p : Polarity) (m : ReportMode) : (s.bindLine h e p m).sessions = s.sessions := by simp [State.bindLine]
@[simp] theorem State.bindLine_slots (h : Handle) (e : LineId) (p : Polarity) (m : ReportMode) : (s.bindLine h e p m).slots = s.slots := by simp [State.bindLine]
@[simp] theorem State.bindLine_profiles (h : Handle) (e : LineId) (p : Polarity) (m : ReportMode) : (s.bindLine h e p m).profiles = s.profiles := by simp [State.bindLine]
@[simp] theorem State.bindLine_jobs (h : Handle) (e : LineId) (p : Polarity) (m : ReportMode) : (s.bindLine h e p m).jobs = s.jobs := by simp [State.bindLine]
@[simp] theorem State.bindLine_chains (h : Handle) (e : LineId) (p : Polarity) (m : ReportMode) : (s.bindLine h e p m).chains = s.chains := by simp [State.bindLine]
@[simp] theorem State.bindLine_pending (h : Handle) (e : LineId) (p : Polarity) (m : ReportMode) : (s.bindLine h e p m).pending = s.pending := by simp [State.bindLine]

/-! ### unbindRecord -/

@[simp] theorem State.unbindRecord_power (h : Handle) : (s.unbindRecord h).power = s.power := by simp [State.unbindRecord]
@[simp] theorem State.unbindRecord_resetLow (h : Handle) : (s.unbindRecord h).resetLow = s.resetLow := by simp [State.unbindRecord]
@[simp] theorem State.unbindRecord_straps (h : Handle) : (s.unbindRecord h).straps = s.straps := by simp [State.unbindRecord]
@[simp] theorem State.unbindRecord_tickRunning (h : Handle) : (s.unbindRecord h).tickRunning = s.tickRunning := by simp [State.unbindRecord]
@[simp] theorem State.unbindRecord_links (h : Handle) : (s.unbindRecord h).links = s.links := by simp [State.unbindRecord]
@[simp] theorem State.unbindRecord_sessions (h : Handle) : (s.unbindRecord h).sessions = s.sessions := by simp [State.unbindRecord]
@[simp] theorem State.unbindRecord_slots (h : Handle) : (s.unbindRecord h).slots = s.slots := by simp [State.unbindRecord]
@[simp] theorem State.unbindRecord_profiles (h : Handle) : (s.unbindRecord h).profiles = s.profiles := by simp [State.unbindRecord]
@[simp] theorem State.unbindRecord_jobs (h : Handle) : (s.unbindRecord h).jobs = s.jobs := by simp [State.unbindRecord]
@[simp] theorem State.unbindRecord_chains (h : Handle) : (s.unbindRecord h).chains = s.chains := by simp [State.unbindRecord]
@[simp] theorem State.unbindRecord_pending (h : Handle) : (s.unbindRecord h).pending = s.pending := by simp [State.unbindRecord]

/-! ### writeDescription -/

@[simp] theorem State.writeDescription_power (i : SlotId) (p : LengthPlan) (es : List Edit) : (s.writeDescription i p es).power = s.power := by simp [State.writeDescription]
@[simp] theorem State.writeDescription_resetLow (i : SlotId) (p : LengthPlan) (es : List Edit) : (s.writeDescription i p es).resetLow = s.resetLow := by simp [State.writeDescription]
@[simp] theorem State.writeDescription_straps (i : SlotId) (p : LengthPlan) (es : List Edit) : (s.writeDescription i p es).straps = s.straps := by simp [State.writeDescription]
@[simp] theorem State.writeDescription_tickRunning (i : SlotId) (p : LengthPlan) (es : List Edit) : (s.writeDescription i p es).tickRunning = s.tickRunning := by simp [State.writeDescription]
@[simp] theorem State.writeDescription_links (i : SlotId) (p : LengthPlan) (es : List Edit) : (s.writeDescription i p es).links = s.links := by simp [State.writeDescription]
@[simp] theorem State.writeDescription_sessions (i : SlotId) (p : LengthPlan) (es : List Edit) : (s.writeDescription i p es).sessions = s.sessions := by simp [State.writeDescription]
@[simp] theorem State.writeDescription_profiles (i : SlotId) (p : LengthPlan) (es : List Edit) : (s.writeDescription i p es).profiles = s.profiles := by simp [State.writeDescription]
@[simp] theorem State.writeDescription_jobs (i : SlotId) (p : LengthPlan) (es : List Edit) : (s.writeDescription i p es).jobs = s.jobs := by simp [State.writeDescription]
@[simp] theorem State.writeDescription_chains (i : SlotId) (p : LengthPlan) (es : List Edit) : (s.writeDescription i p es).chains = s.chains := by simp [State.writeDescription]
@[simp] theorem State.writeDescription_lines (i : SlotId) (p : LengthPlan) (es : List Edit) : (s.writeDescription i p es).lines = s.lines := by simp [State.writeDescription]
@[simp] theorem State.writeDescription_pending (i : SlotId) (p : LengthPlan) (es : List Edit) : (s.writeDescription i p es).pending = s.pending := by simp [State.writeDescription]

/-! ### writeResidents -/

@[simp] theorem State.writeResidents_power (c : ChainId) (target : Option Handle) (i : Fin 8) : (s.writeResidents c target i).power = s.power := by simp [State.writeResidents]
@[simp] theorem State.writeResidents_resetLow (c : ChainId) (target : Option Handle) (i : Fin 8) : (s.writeResidents c target i).resetLow = s.resetLow := by simp [State.writeResidents]
@[simp] theorem State.writeResidents_straps (c : ChainId) (target : Option Handle) (i : Fin 8) : (s.writeResidents c target i).straps = s.straps := by simp [State.writeResidents]
@[simp] theorem State.writeResidents_tickRunning (c : ChainId) (target : Option Handle) (i : Fin 8) : (s.writeResidents c target i).tickRunning = s.tickRunning := by simp [State.writeResidents]
@[simp] theorem State.writeResidents_links (c : ChainId) (target : Option Handle) (i : Fin 8) : (s.writeResidents c target i).links = s.links := by simp [State.writeResidents]
@[simp] theorem State.writeResidents_sessions (c : ChainId) (target : Option Handle) (i : Fin 8) : (s.writeResidents c target i).sessions = s.sessions := by simp [State.writeResidents]
@[simp] theorem State.writeResidents_profiles (c : ChainId) (target : Option Handle) (i : Fin 8) : (s.writeResidents c target i).profiles = s.profiles := by simp [State.writeResidents]
@[simp] theorem State.writeResidents_jobs (c : ChainId) (target : Option Handle) (i : Fin 8) : (s.writeResidents c target i).jobs = s.jobs := by simp [State.writeResidents]
@[simp] theorem State.writeResidents_chains (c : ChainId) (target : Option Handle) (i : Fin 8) : (s.writeResidents c target i).chains = s.chains := by simp [State.writeResidents]
@[simp] theorem State.writeResidents_lines (c : ChainId) (target : Option Handle) (i : Fin 8) : (s.writeResidents c target i).lines = s.lines := by simp [State.writeResidents]
@[simp] theorem State.writeResidents_pending (c : ChainId) (target : Option Handle) (i : Fin 8) : (s.writeResidents c target i).pending = s.pending := by simp [State.writeResidents]

/-! ### toReady -/

@[simp] theorem State.toReady_power (c : ChainId) : (s.toReady c).power = s.power := by simp [State.toReady]
@[simp] theorem State.toReady_resetLow (c : ChainId) : (s.toReady c).resetLow = s.resetLow := by simp [State.toReady]
@[simp] theorem State.toReady_straps (c : ChainId) : (s.toReady c).straps = s.straps := by simp [State.toReady]
@[simp] theorem State.toReady_tickRunning (c : ChainId) : (s.toReady c).tickRunning = s.tickRunning := by simp [State.toReady]
@[simp] theorem State.toReady_links (c : ChainId) : (s.toReady c).links = s.links := by simp [State.toReady]
@[simp] theorem State.toReady_sessions (c : ChainId) : (s.toReady c).sessions = s.sessions := by simp [State.toReady]
@[simp] theorem State.toReady_slots (c : ChainId) : (s.toReady c).slots = s.slots := by simp [State.toReady]
@[simp] theorem State.toReady_profiles (c : ChainId) : (s.toReady c).profiles = s.profiles := by simp [State.toReady]
@[simp] theorem State.toReady_jobs (c : ChainId) : (s.toReady c).jobs = s.jobs := by simp [State.toReady]
@[simp] theorem State.toReady_lines (c : ChainId) : (s.toReady c).lines = s.lines := by simp [State.toReady]
@[simp] theorem State.toReady_pending (c : ChainId) : (s.toReady c).pending = s.pending := by simp [State.toReady]

/-! ### decideRelease -/

@[simp] theorem State.decideRelease_power (c : ChainId) (target : Option Handle) : (s.decideRelease c target).power = s.power := by
  simp only [State.decideRelease]; split <;> (try split) <;> (try split) <;> simp
@[simp] theorem State.decideRelease_resetLow (c : ChainId) (target : Option Handle) : (s.decideRelease c target).resetLow = s.resetLow := by
  simp only [State.decideRelease]; split <;> (try split) <;> (try split) <;> simp
@[simp] theorem State.decideRelease_straps (c : ChainId) (target : Option Handle) : (s.decideRelease c target).straps = s.straps := by
  simp only [State.decideRelease]; split <;> (try split) <;> (try split) <;> simp
@[simp] theorem State.decideRelease_tickRunning (c : ChainId) (target : Option Handle) : (s.decideRelease c target).tickRunning = s.tickRunning := by
  simp only [State.decideRelease]; split <;> (try split) <;> (try split) <;> simp
@[simp] theorem State.decideRelease_links (c : ChainId) (target : Option Handle) : (s.decideRelease c target).links = s.links := by
  simp only [State.decideRelease]; split <;> (try split) <;> (try split) <;> simp
@[simp] theorem State.decideRelease_sessions (c : ChainId) (target : Option Handle) : (s.decideRelease c target).sessions = s.sessions := by
  simp only [State.decideRelease]; split <;> (try split) <;> (try split) <;> simp
@[simp] theorem State.decideRelease_profiles (c : ChainId) (target : Option Handle) : (s.decideRelease c target).profiles = s.profiles := by
  simp only [State.decideRelease]; split <;> (try split) <;> (try split) <;> simp
@[simp] theorem State.decideRelease_jobs (c : ChainId) (target : Option Handle) : (s.decideRelease c target).jobs = s.jobs := by
  simp only [State.decideRelease]; split <;> (try split) <;> (try split) <;> simp
@[simp] theorem State.decideRelease_lines (c : ChainId) (target : Option Handle) : (s.decideRelease c target).lines = s.lines := by
  simp only [State.decideRelease]; split <;> (try split) <;> (try split) <;> simp
@[simp] theorem State.decideRelease_pending (c : ChainId) (target : Option Handle) : (s.decideRelease c target).pending = s.pending := by
  simp only [State.decideRelease]; split <;> (try split) <;> (try split) <;> simp

/-! ### endPark -/

@[simp] theorem State.endPark_power (target : Option Handle) : (s.endPark target).power = s.power := by
  simp only [State.endPark]; split <;> (try split) <;> simp
@[simp] theorem State.endPark_resetLow (target : Option Handle) : (s.endPark target).resetLow = s.resetLow := by
  simp only [State.endPark]; split <;> (try split) <;> simp
@[simp] theorem State.endPark_straps (target : Option Handle) : (s.endPark target).straps = s.straps := by
  simp only [State.endPark]; split <;> (try split) <;> simp
@[simp] theorem State.endPark_tickRunning (target : Option Handle) : (s.endPark target).tickRunning = s.tickRunning := by
  simp only [State.endPark]; split <;> (try split) <;> simp
@[simp] theorem State.endPark_links (target : Option Handle) : (s.endPark target).links = s.links := by
  simp only [State.endPark]; split <;> (try split) <;> simp
@[simp] theorem State.endPark_sessions (target : Option Handle) : (s.endPark target).sessions = s.sessions := by
  simp only [State.endPark]; split <;> (try split) <;> simp
@[simp] theorem State.endPark_profiles (target : Option Handle) : (s.endPark target).profiles = s.profiles := by
  simp only [State.endPark]; split <;> (try split) <;> simp
@[simp] theorem State.endPark_jobs (target : Option Handle) : (s.endPark target).jobs = s.jobs := by
  simp only [State.endPark]; split <;> (try split) <;> simp
@[simp] theorem State.endPark_chains (target : Option Handle) : (s.endPark target).chains = s.chains := by
  simp only [State.endPark]; split <;> (try split) <;> simp
@[simp] theorem State.endPark_lines (target : Option Handle) : (s.endPark target).lines = s.lines := by
  simp only [State.endPark]; split <;> (try split) <;> simp
@[simp] theorem State.endPark_pending (target : Option Handle) : (s.endPark target).pending = s.pending := by
  simp only [State.endPark]; split <;> (try split) <;> simp

/-! ### completeScan -/

@[simp] theorem State.completeScan_power (c : ChainId) (x : Scan) : (s.completeScan c x).power = s.power := by
  simp only [State.completeScan]; split <;> split <;> simp
@[simp] theorem State.completeScan_resetLow (c : ChainId) (x : Scan) : (s.completeScan c x).resetLow = s.resetLow := by
  simp only [State.completeScan]; split <;> split <;> simp
@[simp] theorem State.completeScan_straps (c : ChainId) (x : Scan) : (s.completeScan c x).straps = s.straps := by
  simp only [State.completeScan]; split <;> split <;> simp
@[simp] theorem State.completeScan_tickRunning (c : ChainId) (x : Scan) : (s.completeScan c x).tickRunning = s.tickRunning := by
  simp only [State.completeScan]; split <;> split <;> simp
@[simp] theorem State.completeScan_links (c : ChainId) (x : Scan) : (s.completeScan c x).links = s.links := by
  simp only [State.completeScan]; split <;> split <;> simp
@[simp] theorem State.completeScan_sessions (c : ChainId) (x : Scan) : (s.completeScan c x).sessions = s.sessions := by
  simp only [State.completeScan]; split <;> split <;> simp
@[simp] theorem State.completeScan_profiles (c : ChainId) (x : Scan) : (s.completeScan c x).profiles = s.profiles := by
  simp only [State.completeScan]; split <;> split <;> simp
@[simp] theorem State.completeScan_lines (c : ChainId) (x : Scan) : (s.completeScan c x).lines = s.lines := by
  simp only [State.completeScan]; split <;> split <;> simp
@[simp] theorem State.completeScan_pending (c : ChainId) (x : Scan) : (s.completeScan c x).pending = s.pending := by
  simp only [State.completeScan]; split <;> split <;> simp

/-! ### suspectRecords -/

@[simp] theorem State.suspectRecords_power (c : ChainId) : (s.suspectRecords c).power = s.power := by simp [State.suspectRecords]
@[simp] theorem State.suspectRecords_resetLow (c : ChainId) : (s.suspectRecords c).resetLow = s.resetLow := by simp [State.suspectRecords]
@[simp] theorem State.suspectRecords_straps (c : ChainId) : (s.suspectRecords c).straps = s.straps := by simp [State.suspectRecords]
@[simp] theorem State.suspectRecords_tickRunning (c : ChainId) : (s.suspectRecords c).tickRunning = s.tickRunning := by simp [State.suspectRecords]
@[simp] theorem State.suspectRecords_links (c : ChainId) : (s.suspectRecords c).links = s.links := by simp [State.suspectRecords]
@[simp] theorem State.suspectRecords_sessions (c : ChainId) : (s.suspectRecords c).sessions = s.sessions := by simp [State.suspectRecords]
@[simp] theorem State.suspectRecords_profiles (c : ChainId) : (s.suspectRecords c).profiles = s.profiles := by simp [State.suspectRecords]
@[simp] theorem State.suspectRecords_jobs (c : ChainId) : (s.suspectRecords c).jobs = s.jobs := by simp [State.suspectRecords]
@[simp] theorem State.suspectRecords_chains (c : ChainId) : (s.suspectRecords c).chains = s.chains := by simp [State.suspectRecords]
@[simp] theorem State.suspectRecords_lines (c : ChainId) : (s.suspectRecords c).lines = s.lines := by simp [State.suspectRecords]
@[simp] theorem State.suspectRecords_pending (c : ChainId) : (s.suspectRecords c).pending = s.pending := by simp [State.suspectRecords]

/-! ### declareFault -/

@[simp] theorem State.declareFault_power (c : ChainId) : (s.declareFault c).power = s.power := by simp [State.declareFault]
@[simp] theorem State.declareFault_resetLow (c : ChainId) : (s.declareFault c).resetLow = s.resetLow := by simp [State.declareFault]
@[simp] theorem State.declareFault_straps (c : ChainId) : (s.declareFault c).straps = s.straps := by simp [State.declareFault]
@[simp] theorem State.declareFault_tickRunning (c : ChainId) : (s.declareFault c).tickRunning = s.tickRunning := by simp [State.declareFault]
@[simp] theorem State.declareFault_links (c : ChainId) : (s.declareFault c).links = s.links := by simp [State.declareFault]
@[simp] theorem State.declareFault_profiles (c : ChainId) : (s.declareFault c).profiles = s.profiles := by simp [State.declareFault]
@[simp] theorem State.declareFault_lines (c : ChainId) : (s.declareFault c).lines = s.lines := by simp [State.declareFault]
@[simp] theorem State.declareFault_pending (c : ChainId) : (s.declareFault c).pending = s.pending := by simp [State.declareFault]

/-! ### resetRecords -/

@[simp] theorem State.resetRecords_power (c : ChainId) : (s.resetRecords c).power = s.power := by simp [State.resetRecords]
@[simp] theorem State.resetRecords_resetLow (c : ChainId) : (s.resetRecords c).resetLow = s.resetLow := by simp [State.resetRecords]
@[simp] theorem State.resetRecords_straps (c : ChainId) : (s.resetRecords c).straps = s.straps := by simp [State.resetRecords]
@[simp] theorem State.resetRecords_tickRunning (c : ChainId) : (s.resetRecords c).tickRunning = s.tickRunning := by simp [State.resetRecords]
@[simp] theorem State.resetRecords_links (c : ChainId) : (s.resetRecords c).links = s.links := by simp [State.resetRecords]
@[simp] theorem State.resetRecords_sessions (c : ChainId) : (s.resetRecords c).sessions = s.sessions := by simp [State.resetRecords]
@[simp] theorem State.resetRecords_profiles (c : ChainId) : (s.resetRecords c).profiles = s.profiles := by simp [State.resetRecords]
@[simp] theorem State.resetRecords_jobs (c : ChainId) : (s.resetRecords c).jobs = s.jobs := by simp [State.resetRecords]
@[simp] theorem State.resetRecords_chains (c : ChainId) : (s.resetRecords c).chains = s.chains := by simp [State.resetRecords]
@[simp] theorem State.resetRecords_lines (c : ChainId) : (s.resetRecords c).lines = s.lines := by simp [State.resetRecords]
@[simp] theorem State.resetRecords_pending (c : ChainId) : (s.resetRecords c).pending = s.pending := by simp [State.resetRecords]

/-! ### enumFault -/

@[simp] theorem State.enumFault_power (c : ChainId) (cause : FaultCause) : (s.enumFault c cause).power = s.power := by simp [State.enumFault]
@[simp] theorem State.enumFault_resetLow (c : ChainId) (cause : FaultCause) : (s.enumFault c cause).resetLow = s.resetLow := by simp [State.enumFault]
@[simp] theorem State.enumFault_straps (c : ChainId) (cause : FaultCause) : (s.enumFault c cause).straps = s.straps := by simp [State.enumFault]
@[simp] theorem State.enumFault_tickRunning (c : ChainId) (cause : FaultCause) : (s.enumFault c cause).tickRunning = s.tickRunning := by simp [State.enumFault]
@[simp] theorem State.enumFault_links (c : ChainId) (cause : FaultCause) : (s.enumFault c cause).links = s.links := by simp [State.enumFault]
@[simp] theorem State.enumFault_slots (c : ChainId) (cause : FaultCause) : (s.enumFault c cause).slots = s.slots := by simp [State.enumFault]
@[simp] theorem State.enumFault_profiles (c : ChainId) (cause : FaultCause) : (s.enumFault c cause).profiles = s.profiles := by simp [State.enumFault]
@[simp] theorem State.enumFault_jobs (c : ChainId) (cause : FaultCause) : (s.enumFault c cause).jobs = s.jobs := by simp [State.enumFault]
@[simp] theorem State.enumFault_lines (c : ChainId) (cause : FaultCause) : (s.enumFault c cause).lines = s.lines := by simp [State.enumFault]
@[simp] theorem State.enumFault_pending (c : ChainId) (cause : FaultCause) : (s.enumFault c cause).pending = s.pending := by simp [State.enumFault]

/-! ### enumNext -/

@[simp] theorem State.enumNext_power (c : ChainId) (step : EnumStep) : (s.enumNext c step).power = s.power := by simp [State.enumNext]
@[simp] theorem State.enumNext_resetLow (c : ChainId) (step : EnumStep) : (s.enumNext c step).resetLow = s.resetLow := by simp [State.enumNext]
@[simp] theorem State.enumNext_straps (c : ChainId) (step : EnumStep) : (s.enumNext c step).straps = s.straps := by simp [State.enumNext]
@[simp] theorem State.enumNext_tickRunning (c : ChainId) (step : EnumStep) : (s.enumNext c step).tickRunning = s.tickRunning := by simp [State.enumNext]
@[simp] theorem State.enumNext_links (c : ChainId) (step : EnumStep) : (s.enumNext c step).links = s.links := by simp [State.enumNext]
@[simp] theorem State.enumNext_sessions (c : ChainId) (step : EnumStep) : (s.enumNext c step).sessions = s.sessions := by simp [State.enumNext]
@[simp] theorem State.enumNext_slots (c : ChainId) (step : EnumStep) : (s.enumNext c step).slots = s.slots := by simp [State.enumNext]
@[simp] theorem State.enumNext_profiles (c : ChainId) (step : EnumStep) : (s.enumNext c step).profiles = s.profiles := by simp [State.enumNext]
@[simp] theorem State.enumNext_jobs (c : ChainId) (step : EnumStep) : (s.enumNext c step).jobs = s.jobs := by simp [State.enumNext]
@[simp] theorem State.enumNext_lines (c : ChainId) (step : EnumStep) : (s.enumNext c step).lines = s.lines := by simp [State.enumNext]
@[simp] theorem State.enumNext_pending (c : ChainId) (step : EnumStep) : (s.enumNext c step).pending = s.pending := by simp [State.enumNext]

/-! ### allocate -/

@[simp] theorem State.allocate_power (c : ChainId) (ids : List (Option Word32)) (ds : List Description) : (s.allocate c ids ds).power = s.power := by simp [State.allocate]
@[simp] theorem State.allocate_resetLow (c : ChainId) (ids : List (Option Word32)) (ds : List Description) : (s.allocate c ids ds).resetLow = s.resetLow := by simp [State.allocate]
@[simp] theorem State.allocate_straps (c : ChainId) (ids : List (Option Word32)) (ds : List Description) : (s.allocate c ids ds).straps = s.straps := by simp [State.allocate]
@[simp] theorem State.allocate_tickRunning (c : ChainId) (ids : List (Option Word32)) (ds : List Description) : (s.allocate c ids ds).tickRunning = s.tickRunning := by simp [State.allocate]
@[simp] theorem State.allocate_links (c : ChainId) (ids : List (Option Word32)) (ds : List Description) : (s.allocate c ids ds).links = s.links := by simp [State.allocate]
@[simp] theorem State.allocate_sessions (c : ChainId) (ids : List (Option Word32)) (ds : List Description) : (s.allocate c ids ds).sessions = s.sessions := by simp [State.allocate]
@[simp] theorem State.allocate_profiles (c : ChainId) (ids : List (Option Word32)) (ds : List Description) : (s.allocate c ids ds).profiles = s.profiles := by simp [State.allocate]
@[simp] theorem State.allocate_jobs (c : ChainId) (ids : List (Option Word32)) (ds : List Description) : (s.allocate c ids ds).jobs = s.jobs := by simp [State.allocate]
@[simp] theorem State.allocate_chains (c : ChainId) (ids : List (Option Word32)) (ds : List Description) : (s.allocate c ids ds).chains = s.chains := by simp [State.allocate]
@[simp] theorem State.allocate_lines (c : ChainId) (ids : List (Option Word32)) (ds : List Description) : (s.allocate c ids ds).lines = s.lines := by simp [State.allocate]
@[simp] theorem State.allocate_pending (c : ChainId) (ids : List (Option Word32)) (ds : List Description) : (s.allocate c ids ds).pending = s.pending := by simp [State.allocate]

/-! ### finishEnum -/

@[simp] theorem State.finishEnum_power (c : ChainId) (n total : Nat) (pattern : List Bool) (conflict : Bool) : (s.finishEnum c n total pattern conflict).power = s.power := by simp [State.finishEnum]
@[simp] theorem State.finishEnum_resetLow (c : ChainId) (n total : Nat) (pattern : List Bool) (conflict : Bool) : (s.finishEnum c n total pattern conflict).resetLow = s.resetLow := by simp [State.finishEnum]
@[simp] theorem State.finishEnum_straps (c : ChainId) (n total : Nat) (pattern : List Bool) (conflict : Bool) : (s.finishEnum c n total pattern conflict).straps = s.straps := by simp [State.finishEnum]
@[simp] theorem State.finishEnum_tickRunning (c : ChainId) (n total : Nat) (pattern : List Bool) (conflict : Bool) : (s.finishEnum c n total pattern conflict).tickRunning = s.tickRunning := by simp [State.finishEnum]
@[simp] theorem State.finishEnum_links (c : ChainId) (n total : Nat) (pattern : List Bool) (conflict : Bool) : (s.finishEnum c n total pattern conflict).links = s.links := by simp [State.finishEnum]
@[simp] theorem State.finishEnum_slots (c : ChainId) (n total : Nat) (pattern : List Bool) (conflict : Bool) : (s.finishEnum c n total pattern conflict).slots = s.slots := by simp [State.finishEnum]
@[simp] theorem State.finishEnum_profiles (c : ChainId) (n total : Nat) (pattern : List Bool) (conflict : Bool) : (s.finishEnum c n total pattern conflict).profiles = s.profiles := by simp [State.finishEnum]
@[simp] theorem State.finishEnum_jobs (c : ChainId) (n total : Nat) (pattern : List Bool) (conflict : Bool) : (s.finishEnum c n total pattern conflict).jobs = s.jobs := by simp [State.finishEnum]
@[simp] theorem State.finishEnum_lines (c : ChainId) (n total : Nat) (pattern : List Bool) (conflict : Bool) : (s.finishEnum c n total pattern conflict).lines = s.lines := by simp [State.finishEnum]
@[simp] theorem State.finishEnum_pending (c : ChainId) (n total : Nat) (pattern : List Bool) (conflict : Bool) : (s.finishEnum c n total pattern conflict).pending = s.pending := by simp [State.finishEnum]

/-! ### closeEnum -/

@[simp] theorem State.closeEnum_power (c : ChainId) (ids : List (Option Word32)) (total : Nat) (pattern : List Bool) : (s.closeEnum c ids total pattern).power = s.power := by
  simp only [State.closeEnum]; split <;> simp
@[simp] theorem State.closeEnum_resetLow (c : ChainId) (ids : List (Option Word32)) (total : Nat) (pattern : List Bool) : (s.closeEnum c ids total pattern).resetLow = s.resetLow := by
  simp only [State.closeEnum]; split <;> simp
@[simp] theorem State.closeEnum_straps (c : ChainId) (ids : List (Option Word32)) (total : Nat) (pattern : List Bool) : (s.closeEnum c ids total pattern).straps = s.straps := by
  simp only [State.closeEnum]; split <;> simp
@[simp] theorem State.closeEnum_tickRunning (c : ChainId) (ids : List (Option Word32)) (total : Nat) (pattern : List Bool) : (s.closeEnum c ids total pattern).tickRunning = s.tickRunning := by
  simp only [State.closeEnum]; split <;> simp
@[simp] theorem State.closeEnum_links (c : ChainId) (ids : List (Option Word32)) (total : Nat) (pattern : List Bool) : (s.closeEnum c ids total pattern).links = s.links := by
  simp only [State.closeEnum]; split <;> simp
@[simp] theorem State.closeEnum_profiles (c : ChainId) (ids : List (Option Word32)) (total : Nat) (pattern : List Bool) : (s.closeEnum c ids total pattern).profiles = s.profiles := by
  simp only [State.closeEnum]; split <;> simp
@[simp] theorem State.closeEnum_jobs (c : ChainId) (ids : List (Option Word32)) (total : Nat) (pattern : List Bool) : (s.closeEnum c ids total pattern).jobs = s.jobs := by
  simp only [State.closeEnum]; split <;> simp
@[simp] theorem State.closeEnum_lines (c : ChainId) (ids : List (Option Word32)) (total : Nat) (pattern : List Bool) : (s.closeEnum c ids total pattern).lines = s.lines := by
  simp only [State.closeEnum]; split <;> simp
@[simp] theorem State.closeEnum_pending (c : ChainId) (ids : List (Option Word32)) (total : Nat) (pattern : List Bool) : (s.closeEnum c ids total pattern).pending = s.pending := by
  simp only [State.closeEnum]; split <;> simp

/-! ### grantJob -/

@[simp] theorem State.grantJob_power (c : ChainId) (j : JobId) (x : Job) : (s.grantJob c j x).power = s.power := by simp [State.grantJob]
@[simp] theorem State.grantJob_resetLow (c : ChainId) (j : JobId) (x : Job) : (s.grantJob c j x).resetLow = s.resetLow := by simp [State.grantJob]
@[simp] theorem State.grantJob_straps (c : ChainId) (j : JobId) (x : Job) : (s.grantJob c j x).straps = s.straps := by simp [State.grantJob]
@[simp] theorem State.grantJob_tickRunning (c : ChainId) (j : JobId) (x : Job) : (s.grantJob c j x).tickRunning = s.tickRunning := by simp [State.grantJob]
@[simp] theorem State.grantJob_links (c : ChainId) (j : JobId) (x : Job) : (s.grantJob c j x).links = s.links := by simp [State.grantJob]
@[simp] theorem State.grantJob_sessions (c : ChainId) (j : JobId) (x : Job) : (s.grantJob c j x).sessions = s.sessions := by simp [State.grantJob]
@[simp] theorem State.grantJob_slots (c : ChainId) (j : JobId) (x : Job) : (s.grantJob c j x).slots = s.slots := by simp [State.grantJob]
@[simp] theorem State.grantJob_profiles (c : ChainId) (j : JobId) (x : Job) : (s.grantJob c j x).profiles = s.profiles := by simp [State.grantJob]
@[simp] theorem State.grantJob_lines (c : ChainId) (j : JobId) (x : Job) : (s.grantJob c j x).lines = s.lines := by simp [State.grantJob]
@[simp] theorem State.grantJob_pending (c : ChainId) (j : JobId) (x : Job) : (s.grantJob c j x).pending = s.pending := by simp [State.grantJob]

/-! ### grantPark -/

@[simp] theorem State.grantPark_power (c : ChainId) (h : Handle) (rest : List Handle) : (s.grantPark c h rest).power = s.power := by simp [State.grantPark]
@[simp] theorem State.grantPark_resetLow (c : ChainId) (h : Handle) (rest : List Handle) : (s.grantPark c h rest).resetLow = s.resetLow := by simp [State.grantPark]
@[simp] theorem State.grantPark_straps (c : ChainId) (h : Handle) (rest : List Handle) : (s.grantPark c h rest).straps = s.straps := by simp [State.grantPark]
@[simp] theorem State.grantPark_tickRunning (c : ChainId) (h : Handle) (rest : List Handle) : (s.grantPark c h rest).tickRunning = s.tickRunning := by simp [State.grantPark]
@[simp] theorem State.grantPark_links (c : ChainId) (h : Handle) (rest : List Handle) : (s.grantPark c h rest).links = s.links := by simp [State.grantPark]
@[simp] theorem State.grantPark_sessions (c : ChainId) (h : Handle) (rest : List Handle) : (s.grantPark c h rest).sessions = s.sessions := by simp [State.grantPark]
@[simp] theorem State.grantPark_slots (c : ChainId) (h : Handle) (rest : List Handle) : (s.grantPark c h rest).slots = s.slots := by simp [State.grantPark]
@[simp] theorem State.grantPark_profiles (c : ChainId) (h : Handle) (rest : List Handle) : (s.grantPark c h rest).profiles = s.profiles := by simp [State.grantPark]
@[simp] theorem State.grantPark_jobs (c : ChainId) (h : Handle) (rest : List Handle) : (s.grantPark c h rest).jobs = s.jobs := by simp [State.grantPark]
@[simp] theorem State.grantPark_lines (c : ChainId) (h : Handle) (rest : List Handle) : (s.grantPark c h rest).lines = s.lines := by simp [State.grantPark]
@[simp] theorem State.grantPark_pending (c : ChainId) (h : Handle) (rest : List Handle) : (s.grantPark c h rest).pending = s.pending := by simp [State.grantPark]

/-! ### restartKeepalive -/

@[simp] theorem State.restartKeepalive_power (l : SessionId) : (s.restartKeepalive l).power = s.power := by simp [State.restartKeepalive]
@[simp] theorem State.restartKeepalive_resetLow (l : SessionId) : (s.restartKeepalive l).resetLow = s.resetLow := by simp [State.restartKeepalive]
@[simp] theorem State.restartKeepalive_straps (l : SessionId) : (s.restartKeepalive l).straps = s.straps := by simp [State.restartKeepalive]
@[simp] theorem State.restartKeepalive_tickRunning (l : SessionId) : (s.restartKeepalive l).tickRunning = s.tickRunning := by simp [State.restartKeepalive]
@[simp] theorem State.restartKeepalive_links (l : SessionId) : (s.restartKeepalive l).links = s.links := by simp [State.restartKeepalive]
@[simp] theorem State.restartKeepalive_slots (l : SessionId) : (s.restartKeepalive l).slots = s.slots := by simp [State.restartKeepalive]
@[simp] theorem State.restartKeepalive_profiles (l : SessionId) : (s.restartKeepalive l).profiles = s.profiles := by simp [State.restartKeepalive]
@[simp] theorem State.restartKeepalive_jobs (l : SessionId) : (s.restartKeepalive l).jobs = s.jobs := by simp [State.restartKeepalive]
@[simp] theorem State.restartKeepalive_chains (l : SessionId) : (s.restartKeepalive l).chains = s.chains := by simp [State.restartKeepalive]
@[simp] theorem State.restartKeepalive_lines (l : SessionId) : (s.restartKeepalive l).lines = s.lines := by simp [State.restartKeepalive]
@[simp] theorem State.restartKeepalive_pending (l : SessionId) : (s.restartKeepalive l).pending = s.pending := by simp [State.restartKeepalive]

/-! ### receiveChar -/

@[simp] theorem State.receiveChar_power (l : LinkId) (f : LinkFormat) (x : CharSamples) : (s.receiveChar l f x).power = s.power := by
  simp only [State.receiveChar]; split <;> (try split) <;> simp
@[simp] theorem State.receiveChar_resetLow (l : LinkId) (f : LinkFormat) (x : CharSamples) : (s.receiveChar l f x).resetLow = s.resetLow := by
  simp only [State.receiveChar]; split <;> (try split) <;> simp
@[simp] theorem State.receiveChar_straps (l : LinkId) (f : LinkFormat) (x : CharSamples) : (s.receiveChar l f x).straps = s.straps := by
  simp only [State.receiveChar]; split <;> (try split) <;> simp
@[simp] theorem State.receiveChar_tickRunning (l : LinkId) (f : LinkFormat) (x : CharSamples) : (s.receiveChar l f x).tickRunning = s.tickRunning := by
  simp only [State.receiveChar]; split <;> (try split) <;> simp
@[simp] theorem State.receiveChar_slots (l : LinkId) (f : LinkFormat) (x : CharSamples) : (s.receiveChar l f x).slots = s.slots := by
  simp only [State.receiveChar]; split <;> (try split) <;> simp
@[simp] theorem State.receiveChar_profiles (l : LinkId) (f : LinkFormat) (x : CharSamples) : (s.receiveChar l f x).profiles = s.profiles := by
  simp only [State.receiveChar]; split <;> (try split) <;> simp
@[simp] theorem State.receiveChar_jobs (l : LinkId) (f : LinkFormat) (x : CharSamples) : (s.receiveChar l f x).jobs = s.jobs := by
  simp only [State.receiveChar]; split <;> (try split) <;> simp
@[simp] theorem State.receiveChar_chains (l : LinkId) (f : LinkFormat) (x : CharSamples) : (s.receiveChar l f x).chains = s.chains := by
  simp only [State.receiveChar]; split <;> (try split) <;> simp
@[simp] theorem State.receiveChar_lines (l : LinkId) (f : LinkFormat) (x : CharSamples) : (s.receiveChar l f x).lines = s.lines := by
  simp only [State.receiveChar]; split <;> (try split) <;> simp
@[simp] theorem State.receiveChar_pending (l : LinkId) (f : LinkFormat) (x : CharSamples) : (s.receiveChar l f x).pending = s.pending := by
  simp only [State.receiveChar]; split <;> (try split) <;> simp

/-! ### store -/

@[simp] theorem State.store_power (l : SessionId) (seq : Byte) (body : List Byte) (f : Option LinkFormat) : (s.store l seq body f).power = s.power := by
  simp only [State.store]; split <;> simp
@[simp] theorem State.store_resetLow (l : SessionId) (seq : Byte) (body : List Byte) (f : Option LinkFormat) : (s.store l seq body f).resetLow = s.resetLow := by
  simp only [State.store]; split <;> simp
@[simp] theorem State.store_straps (l : SessionId) (seq : Byte) (body : List Byte) (f : Option LinkFormat) : (s.store l seq body f).straps = s.straps := by
  simp only [State.store]; split <;> simp
@[simp] theorem State.store_tickRunning (l : SessionId) (seq : Byte) (body : List Byte) (f : Option LinkFormat) : (s.store l seq body f).tickRunning = s.tickRunning := by
  simp only [State.store]; split <;> simp
@[simp] theorem State.store_links (l : SessionId) (seq : Byte) (body : List Byte) (f : Option LinkFormat) : (s.store l seq body f).links = s.links := by
  simp only [State.store]; split <;> simp
@[simp] theorem State.store_slots (l : SessionId) (seq : Byte) (body : List Byte) (f : Option LinkFormat) : (s.store l seq body f).slots = s.slots := by
  simp only [State.store]; split <;> simp
@[simp] theorem State.store_profiles (l : SessionId) (seq : Byte) (body : List Byte) (f : Option LinkFormat) : (s.store l seq body f).profiles = s.profiles := by
  simp only [State.store]; split <;> simp
@[simp] theorem State.store_jobs (l : SessionId) (seq : Byte) (body : List Byte) (f : Option LinkFormat) : (s.store l seq body f).jobs = s.jobs := by
  simp only [State.store]; split <;> simp
@[simp] theorem State.store_chains (l : SessionId) (seq : Byte) (body : List Byte) (f : Option LinkFormat) : (s.store l seq body f).chains = s.chains := by
  simp only [State.store]; split <;> simp
@[simp] theorem State.store_lines (l : SessionId) (seq : Byte) (body : List Byte) (f : Option LinkFormat) : (s.store l seq body f).lines = s.lines := by
  simp only [State.store]; split <;> simp
@[simp] theorem State.store_pending (l : SessionId) (seq : Byte) (body : List Byte) (f : Option LinkFormat) : (s.store l seq body f).pending = s.pending := by
  simp only [State.store]; split <;> simp

/-! ### tick -/

@[simp] theorem State.sampleLines_power (pins : BitVec 8) : (s.sampleLines pins).power = s.power := by simp [State.sampleLines]
@[simp] theorem State.sampleLines_resetLow (pins : BitVec 8) : (s.sampleLines pins).resetLow = s.resetLow := by simp [State.sampleLines]
@[simp] theorem State.sampleLines_straps (pins : BitVec 8) : (s.sampleLines pins).straps = s.straps := by simp [State.sampleLines]
@[simp] theorem State.sampleLines_tickRunning (pins : BitVec 8) : (s.sampleLines pins).tickRunning = s.tickRunning := by simp [State.sampleLines]
@[simp] theorem State.sampleLines_links (pins : BitVec 8) : (s.sampleLines pins).links = s.links := by simp [State.sampleLines]
@[simp] theorem State.sampleLines_slots (pins : BitVec 8) : (s.sampleLines pins).slots = s.slots := by simp [State.sampleLines]
@[simp] theorem State.sampleLines_profiles (pins : BitVec 8) : (s.sampleLines pins).profiles = s.profiles := by simp [State.sampleLines]
@[simp] theorem State.sampleLines_chains (pins : BitVec 8) : (s.sampleLines pins).chains = s.chains := by simp [State.sampleLines]
@[simp] theorem State.sampleLines_pending (pins : BitVec 8) : (s.sampleLines pins).pending = s.pending := by simp [State.sampleLines]
@[simp] theorem State.sampleLines_sessions (pins : BitVec 8) : (s.sampleLines pins).sessions = s.sessions := by simp [State.sampleLines]
@[simp] theorem State.sampleLines_jobs (pins : BitVec 8) : (s.sampleLines pins).jobs = s.jobs := by simp [State.sampleLines]
@[simp] theorem State.tick_power (pins : BitVec 8) : (s.tick pins).power = s.power := by simp [State.tick]
@[simp] theorem State.tick_resetLow (pins : BitVec 8) : (s.tick pins).resetLow = s.resetLow := by simp [State.tick]
@[simp] theorem State.tick_straps (pins : BitVec 8) : (s.tick pins).straps = s.straps := by simp [State.tick]
@[simp] theorem State.tick_tickRunning (pins : BitVec 8) : (s.tick pins).tickRunning = s.tickRunning := by simp [State.tick]
@[simp] theorem State.tick_links (pins : BitVec 8) : (s.tick pins).links = s.links := by simp [State.tick]
@[simp] theorem State.tick_slots (pins : BitVec 8) : (s.tick pins).slots = s.slots := by simp [State.tick]
@[simp] theorem State.tick_profiles (pins : BitVec 8) : (s.tick pins).profiles = s.profiles := by simp [State.tick]
@[simp] theorem State.tick_chains (pins : BitVec 8) : (s.tick pins).chains = s.chains := by simp [State.tick]
@[simp] theorem State.tick_pending (pins : BitVec 8) : (s.tick pins).pending = s.pending := by simp [State.tick]

/-! ### settle -/

@[simp] theorem settle_power (t : State) : (settle s t).power = t.power := by simp [settle]
@[simp] theorem settle_resetLow (t : State) : (settle s t).resetLow = t.resetLow := by simp [settle]
@[simp] theorem settle_straps (t : State) : (settle s t).straps = t.straps := by simp [settle]
@[simp] theorem settle_tickRunning (t : State) : (settle s t).tickRunning = t.tickRunning := by simp [settle]
@[simp] theorem settle_sessions (t : State) : (settle s t).sessions = t.sessions := by simp [settle]
@[simp] theorem settle_slots (t : State) : (settle s t).slots = t.slots := by simp [settle]
@[simp] theorem settle_profiles (t : State) : (settle s t).profiles = t.profiles := by simp [settle]
@[simp] theorem settle_jobs (t : State) : (settle s t).jobs = t.jobs := by simp [settle]
@[simp] theorem settle_chains (t : State) : (settle s t).chains = t.chains := by simp [settle]
@[simp] theorem settle_lines (t : State) : (settle s t).lines = t.lines := by simp [settle]
@[simp] theorem settle_pending (t : State) : (settle s t).pending = t.pending := by simp [settle]

/-! ### Elements of the touched tables -/

@[simp] theorem State.freeJobs_getElem (p : JobId → Job → Bool) (k : JobId) :
    (s.freeJobs p).jobs[k.val] = if s.jobFits p k then (s.jobs[k.val]).freed else s.jobs[k.val] := by
  simp [State.freeJobs]

@[simp] theorem State.freeJobs_chain (p : JobId → Job → Bool) (c : ChainId) :
    (s.freeJobs p).chains[c.val] =
      { s.chains[c.val] with queue := (s.chains[c.val]).queue.filter fun j => !s.jobFits p j } := by
  simp [State.freeJobs]

@[simp] theorem State.finishJob_getElem (c : ChainId) (j k : JobId) (o : JobOutcome) (data : List Bool) :
    (s.finishJob c j o data).jobs[k.val] =
      if k = j then (s.jobs[j.val]).finished o data else s.jobs[k.val] := by
  simp only [State.finishJob, State.updChain_jobs, Vector.getElem_set, Fin.getElem_fin, Fin.ext_iff, eq_comm]

@[simp] theorem State.finishJob_chain (c k : ChainId) (j : JobId) (o : JobOutcome) (data : List Bool) :
    (s.finishJob c j o data).chains[k.val] =
      if k = c then { s.chains[c.val] with queue := (s.chains[c.val]).queue.filter fun i => i ≠ j }
      else s.chains[k.val] := by
  simp [State.finishJob]

@[simp] theorem State.failQueue_getElem (c : ChainId) (k : JobId) :
    (s.failQueue c).jobs[k.val] =
      if k ∈ (s.chains[c.val]).queue then (s.jobs[k.val]).finished .chainFault [] else s.jobs[k.val] := by
  simp [State.failQueue]

@[simp] theorem State.failQueue_chain (c k : ChainId) :
    (s.failQueue c).chains[k.val] = if k = c then { s.chains[c.val] with queue := [] } else s.chains[k.val] := by
  simp [State.failQueue]

@[simp] theorem State.enterJob_getElem (j k : JobId) (l : SessionId) (c : ChainId) (kind : JobKind) (idle wait : Nat) :
    (s.enterJob j l c kind idle wait).jobs[k.val] =
      if k = j then
        { s.jobs[j.val] with
          job := some
            { session := some l, kind := kind, chain := c, idle := idle, waitLimit := wait,
              status := .queued (if wait = 0 then none else some 0) } }
      else s.jobs[k.val] := by
  simp [State.enterJob]

@[simp] theorem State.enterJob_chain (j : JobId) (l : SessionId) (c k : ChainId) (kind : JobKind) (idle wait : Nat) :
    (s.enterJob j l c kind idle wait).chains[k.val] =
      if k = c then { s.chains[c.val] with queue := (s.chains[c.val]).queue ++ [j] } else s.chains[k.val] := by
  simp [State.enterJob]

@[simp] theorem State.releaseRecords_getElem (p : SlotId → TargetRecord → Bool) (i : SlotId) :
    (s.releaseRecords p).slots[i.val] =
      { s.slots[i.val] with
        record := (s.slots[i.val]).record.map fun r =>
          if p i r then { r with state := s.releasedState i r } else r } := by
  simp [State.releaseRecords]

@[simp] theorem State.releaseRecords_chain (p : SlotId → TargetRecord → Bool) (c : ChainId) :
    (s.releaseRecords p).chains[c.val] =
      { s.chains[c.val] with
        parks := (s.chains[c.val]).parks ++
          ((s.chainRecords c).filter fun ir => p ir.1 ir.2 && s.parksOnRelease ir.1 ir.2).map
            fun ir => s.handleOf ir.1 } := by
  simp [State.releaseRecords]

@[simp] theorem State.endJobs_getElem (l : SessionId) (k : JobId) :
    (s.endJobs l).jobs[k.val] =
      if s.jobFits (fun _ x => decide (x.session = some l) && !x.isRunning) k then (s.jobs[k.val]).freed
      else (s.jobs[k.val]).orphaned l := by
  simp only [State.endJobs, State.mapJobs_getElem, State.freeJobs_getElem]
  split
  · simp [JobSlot.orphaned, JobSlot.freed]
  · rfl

@[simp] theorem State.endJobs_chain (l : SessionId) (c : ChainId) :
    (s.endJobs l).chains[c.val] =
      { s.chains[c.val] with
        queue := (s.chains[c.val]).queue.filter fun j =>
          !s.jobFits (fun _ x => decide (x.session = some l) && !x.isRunning) j } := by
  simp [State.endJobs]

@[simp] theorem State.retire_getElem (c : ChainId) (i : SlotId) :
    (s.retire c).slots[i.val] =
      match (s.slots[i.val]).record with
      | some r => if r.chain = c then ⟨nextSlotGeneration (s.slots[i.val]).generation, none⟩ else s.slots[i.val]
      | none => s.slots[i.val] := by
  simp only [State.retire, State.mapLines_slots, State.mapSlots_getElem]
  all_goals (cases (s.slots[i.val]).record <;> rfl)

@[simp] theorem State.retire_line (c : ChainId) (e : LineId) :
    (s.retire c).lines[e.val] =
      match s.boundRecord e with
      | some r => if r.chain = c then (s.lines[e.val]).unbind else s.lines[e.val]
      | none => s.lines[e.val] := by
  simp only [State.retire, State.mapLines_getElem, State.mapSlots_lines]
  all_goals (cases s.boundRecord e <;> simp only)

@[simp] theorem State.tellParties_getElem (c : ChainId) (l : SessionId) :
    (s.tellParties c).sessions[l.val] =
      (s.sessions[l.val]).map fun x => if chainMember x.watch c || s.ownsOn l c then x.tell c else x := by
  simp only [State.tellParties, State.mapSessions_getElem]

@[simp] theorem State.tellWatchers_getElem (c : ChainId) (l : SessionId) :
    (s.tellWatchers c).sessions[l.val] =
      (s.sessions[l.val]).map fun x => if chainMember x.watch c then x.tell c else x := by
  simp only [State.tellWatchers, State.mapSessions_getElem]

@[simp] theorem State.toReady_getElem (c k : ChainId) :
    (s.toReady c).chains[k.val] =
      if k = c then { s.chains[c.val] with phase := .ready, op := none } else s.chains[k.val] := by
  simp [State.toReady]

@[simp] theorem State.writeResidents_getElem (c : ChainId) (target : Option Handle) (x : Fin 8) (i : SlotId) :
    (s.writeResidents c target x).slots[i.val] =
      { s.slots[i.val] with
        record := (s.slots[i.val]).record.map fun r =>
          if r.chain = c then
            if target = some (s.handleOf i) then { r with resident := .index x }
            else if r.resident = .resetDefault then { r with resident := .index 0 }
            else r
          else r } := by
  simp only [State.writeResidents, State.mapRecords_getElem]

@[simp] theorem State.suspectRecords_getElem (c : ChainId) (i : SlotId) :
    (s.suspectRecords c).slots[i.val] =
      { s.slots[i.val] with
        record := (s.slots[i.val]).record.map fun r =>
          if r.chain = c then { r with state := .suspect r.state.owner, resident := .unknown } else r } := by
  simp only [State.suspectRecords, State.mapRecords_getElem]

@[simp] theorem State.resetRecords_getElem (c : ChainId) (i : SlotId) :
    (s.resetRecords c).slots[i.val] =
      { s.slots[i.val] with
        record := (s.slots[i.val]).record.map fun r =>
          if r.chain = c then
            { r with
              resident := .resetDefault
              state := if r.state = .releasing then .available else r.state }
          else r } := by
  simp only [State.resetRecords, State.mapRecords_getElem]

@[simp] theorem State.bindLine_getElem (h : Handle) (e k : LineId) (p : Polarity) (m : ReportMode) :
    (s.bindLine h e p m).lines[k.val] =
      if k = e then { s.lines[k.val] with binding := some h, polarity := p, mode := m, flag := false }
      else if (s.lines[k.val]).binding = some h then (s.lines[k.val]).unbind
      else s.lines[k.val] := by
  simp only [State.bindLine, State.mapLines_getElem]

@[simp] theorem State.unbindRecord_getElem (h : Handle) (k : LineId) :
    (s.unbindRecord h).lines[k.val] =
      if (s.lines[k.val]).binding = some h then (s.lines[k.val]).unbind else s.lines[k.val] := by
  simp only [State.unbindRecord, State.mapLines_getElem]

@[simp] theorem settle_getElem (t : State) (l : LinkId) :
    (settle s t).links[l.val] =
      match t.sessions[l] with
      | some y =>
        if y.push && transition s t l then { t.links[l.val] with queuedNotice := true } else t.links[l.val]
      | none => t.links[l.val] := by
  simp only [settle, State.mapLinks_getElem]
  all_goals rfl


end Sys2Proof.Machine
end

