-- ==== Sys2Proof/Laws/Directory.lean ====
section
/-! SUPPORT. What the directory's shared operations do, said once each: handles (R3), tickets (R75, R76), the record
at a position and the directory order (R5, R6). -/

namespace Sys2Proof.Machine

/-! ### Handles and tickets -/

theorem ofNat_mul_add {n g : Nat} [NeZero n] (i : Fin n) : Fin.ofNat n (g * n + i.val) = i := by
  apply Fin.ext
  simp [Fin.ofNat, Nat.mul_add_mod_of_lt i.isLt]

theorem mul_add_div {n g : Nat} (i : Fin n) : (g * n + i.val) / n = g := by
  have hn : 0 < n := Nat.lt_of_le_of_lt (Nat.zero_le _) i.isLt
  rw [Nat.add_comm, Nat.add_mul_div_right _ _ hn, Nat.div_eq_of_lt i.isLt, Nat.zero_add]

theorem State.resolve_eq_some {s : State} {h : Handle} {i : SlotId} :
    s.resolve h = some i ↔ (s.slots[i]).record.isSome = true ∧ h = s.handleOf i := by
  simp only [State.resolve, State.handleOf, Option.ite_none_right_eq_some, Option.some.injEq,
    Bool.and_eq_true, decide_eq_true_eq]
  constructor
  · rintro ⟨⟨h1, h2⟩, rfl⟩
    exact ⟨h1, by rw [h2]; exact (Nat.div_add_mod' h 32).symm⟩
  · rintro ⟨h1, rfl⟩
    simp only [ofNat_mul_add]
    exact ⟨⟨h1, (mul_add_div i).symm⟩, trivial⟩

/-- A handle names the live record whose slot and generation make it (R3). -/
theorem State.named_eq_some {s : State} {h : Handle} {i : SlotId} {r : TargetRecord} :
    s.named h = some (i, r) ↔ (s.slots[i]).record = some r ∧ h = s.handleOf i := by
  simp only [State.named, Option.bind_eq_some_iff, State.resolve_eq_some, Option.map_eq_some_iff,
    Prod.mk.injEq]
  constructor
  · rintro ⟨j, ⟨_, h2⟩, q, h3, rfl, rfl⟩; exact ⟨h3, h2⟩
  · rintro ⟨h1, h2⟩; exact ⟨i, ⟨by rw [h1]; rfl, h2⟩, r, h1, rfl, rfl⟩

theorem State.handleOf_injective {s : State} {i j : SlotId} (h : s.handleOf i = s.handleOf j) : i = j := by
  have : Fin.ofNat 32 (s.handleOf i) = Fin.ofNat 32 (s.handleOf j) := by rw [h]
  rwa [State.handleOf, State.handleOf, ofNat_mul_add, ofNat_mul_add] at this

/-- A ticket names for a session its own job whose slot and generation make it (R75, R76). -/
theorem State.ticketed_eq_some {s : State} {l : SessionId} {t : Nat} {j : JobId} {x : Job} :
    s.ticketed l t = some (j, x) ↔
      (s.jobs[j]).job = some x ∧ t = s.ticketOf j ∧ x.session = some l := by
  simp only [State.ticketed, State.ticketOf]
  constructor
  · intro h
    split at h
    · next y hy =>
      simp only [Option.ite_none_right_eq_some, Bool.and_eq_true, decide_eq_true_eq, Option.some.injEq,
        Prod.mk.injEq] at h
      obtain ⟨⟨h1, h2⟩, rfl, rfl⟩ := h
      exact ⟨hy, by rw [h1]; exact (Nat.div_add_mod' t 16).symm, h2⟩
    · simp at h
  · rintro ⟨h1, rfl, h2⟩
    simp only [ofNat_mul_add, h1, mul_add_div, h2, decide_true, Bool.and_self, if_true]

/-! ### Positions and order -/

theorem State.recordAt_sound {s : State} {c : ChainId} {p : Fin 16} {i : SlotId} {r : TargetRecord}
    (h : s.recordAt c p = some (i, r)) : (s.slots[i]).record = some r ∧ r.chain = c ∧ r.position = p := by
  obtain ⟨j, _, hj⟩ := List.exists_of_findSome?_eq_some h
  simp only [Option.bind_eq_some_iff, Option.ite_none_right_eq_some, Bool.and_eq_true, decide_eq_true_eq,
    Option.some.injEq, Prod.mk.injEq] at hj
  obtain ⟨q, hq, ⟨h1, h2⟩, rfl, rfl⟩ := hj
  exact ⟨hq, h1, h2⟩

theorem State.recordAt_isSome {s : State} {i : SlotId} {r : TargetRecord} (h : (s.slots[i]).record = some r) :
    ∃ j q, s.recordAt r.chain r.position = some (j, q) := by
  have : s.recordAt r.chain r.position ≠ none := by
    intro hn
    have := List.findSome?_eq_none_iff.mp hn i (List.mem_finRange i)
    simp at this
    exact this r h rfl rfl
  obtain ⟨⟨j, q⟩, hx⟩ := Option.ne_none_iff_exists'.mp this
  exact ⟨j, q, hx⟩

theorem State.mem_chainRecords {s : State} {c : ChainId} {i : SlotId} {r : TargetRecord} :
    (i, r) ∈ s.chainRecords c ↔ ∃ p, s.recordAt c p = some (i, r) := by
  simp [State.chainRecords, List.mem_filterMap]

theorem State.chainRecords_sound {s : State} {c : ChainId} {i : SlotId} {r : TargetRecord}
    (h : (i, r) ∈ s.chainRecords c) : (s.slots[i]).record = some r ∧ r.chain = c := by
  obtain ⟨p, hp⟩ := State.mem_chainRecords.mp h
  exact ⟨(State.recordAt_sound hp).1, (State.recordAt_sound hp).2.1⟩

theorem State.chainRecords_complete {s : State} {i : SlotId} {r : TargetRecord}
    (h : (s.slots[i]).record = some r) :
    ∃ j q, (j, q) ∈ s.chainRecords r.chain ∧ q.chain = r.chain ∧ q.position = r.position := by
  obtain ⟨j, q, hq⟩ := State.recordAt_isSome h
  exact ⟨j, q, State.mem_chainRecords.mpr ⟨_, hq⟩, (State.recordAt_sound hq).2.1, (State.recordAt_sound hq).2.2⟩

theorem State.chainRecords_pairwise (s : State) (c : ChainId) :
    (s.chainRecords c).Pairwise fun a b => a.2.position < b.2.position := by
  rw [State.chainRecords, List.pairwise_filterMap]
  refine (List.pairwise_lt_finRange 16).imp ?_
  rintro p q hpq ⟨i, r⟩ h1 ⟨j, t⟩ h2
  rw [(State.recordAt_sound h1).2.2, (State.recordAt_sound h2).2.2]
  exact hpq

/-- With one record to a place the chain's list holds every live record of the chain. -/
theorem State.mem_chainRecords_of {s : State} (hd : s.placesDistinct) {i : SlotId} {r : TargetRecord} {c : ChainId}
    (h : (s.slots[i]).record = some r) (hc : r.chain = c) : (i, r) ∈ s.chainRecords c := by
  subst hc
  obtain ⟨j, q, hm, h1, h2⟩ := State.chainRecords_complete h
  have hq := (State.chainRecords_sound hm).1
  by_cases hij : i = j
  · subst hij; rw [h] at hq; cases hq; exact hm
  · have := hd i j hij
    simp only [State.samePlace, h, hq, h1, h2] at this
    simp at this

theorem State.mem_directory {s : State} {i : SlotId} {r : TargetRecord} :
    (i, r) ∈ s.directory ↔ (i, r) ∈ s.chainRecords r.chain := by
  simp only [State.directory, List.mem_flatMap, List.mem_finRange, true_and]
  constructor
  · rintro ⟨c, h⟩; rwa [(State.chainRecords_sound h).2]
  · intro h; exact ⟨_, h⟩

theorem State.directory_pairwise (s : State) :
    s.directory.Pairwise fun a b =>
      a.2.chain < b.2.chain ∨ (a.2.chain = b.2.chain ∧ a.2.position < b.2.position) := by
  rw [State.directory, List.pairwise_flatMap]
  constructor
  · intro c _
    refine (s.chainRecords_pairwise c).imp_of_mem ?_
    rintro ⟨i, r⟩ ⟨j, q⟩ ha hb hp
    right
    exact ⟨by rw [(State.chainRecords_sound ha).2, (State.chainRecords_sound hb).2], hp⟩
  · refine (List.pairwise_lt_finRange 4).imp ?_
    rintro c d hcd ⟨i, r⟩ ha ⟨j, q⟩ hb
    left
    rw [(State.chainRecords_sound ha).2, (State.chainRecords_sound hb).2]
    exact hcd

/-- Rewriting records without moving them rewrites the chain's list in place. -/
theorem State.recordAt_mapRecords (s : State) (f : SlotId → TargetRecord → TargetRecord)
    (hf : ∀ i r, (f i r).chain = r.chain ∧ (f i r).position = r.position) (c : ChainId) (p : Fin 16) :
    (s.mapRecords f).recordAt c p = (s.recordAt c p).map fun ir => (ir.1, f ir.1 ir.2) := by
  simp only [State.recordAt, List.map_findSome?]
  refine congrArg (fun g => List.findSome? g (List.finRange 32)) (funext fun i => ?_)
  simp only [Function.comp, Fin.getElem_fin, State.mapRecords_getElem]
  cases h : (s.slots[i.val]).record with
  | none => simp
  | some r =>
    simp only [Option.map_some, Option.bind_some, (hf i r).1, (hf i r).2]
    split <;> simp

theorem State.chainRecords_mapRecords (s : State) (f : SlotId → TargetRecord → TargetRecord)
    (hf : ∀ i r, (f i r).chain = r.chain ∧ (f i r).position = r.position) (c : ChainId) :
    (s.mapRecords f).chainRecords c = (s.chainRecords c).map fun ir => (ir.1, f ir.1 ir.2) := by
  simp only [State.chainRecords, List.map_filterMap]
  refine congrArg (fun g => List.filterMap g (List.finRange 16)) (funext fun p => ?_)
  exact s.recordAt_mapRecords f hf c p

theorem State.chainRecords_congr {s t : State} (h : t.slots = s.slots) (c : ChainId) :
    t.chainRecords c = s.chainRecords c := by
  simp only [State.chainRecords]
  refine congrArg (fun g => List.filterMap g (List.finRange 16)) (funext fun p => ?_)
  simp only [State.recordAt, h]

end Sys2Proof.Machine
end

