-- ==== Sys2Proof/Laws/Requests.lean ====
section
/-! SUPPORT. What a request row does, said once: the notices an event queues, and the handling of a request frame
from its slot to its reply. -/

namespace Sys2Proof.Machine

/-! ### Notices -/

/-- No kind pends in `t` that did not pend in `s`, for any session OPEN in `s`. -/
def State.quieter (t s : State) : Prop :=
  ∀ (l : SessionId) (k : NoticeKind), s.isOpen l → t.pends l k = true → s.pends l k = true

theorem State.quieter_refl (s : State) : s.quieter s := fun _ _ _ h => h

theorem transition_eq_false {s t : State} (h : t.quieter s) (l : SessionId) : transition s t l = false := by
  rw [transition, Bool.and_eq_false_imp, List.any_eq_false]
  intro ho k _
  cases hk : t.pends l k with
  | false => simp
  | true => simp [h l k ho hk]

/-- An event that makes no kind pending queues no NOTICE. -/
theorem settle_of_quieter {s t : State} (h : t.quieter s) : settle s t = t := by
  have hf : (settle s t).links = t.links := by
    ext k hk : 1
    simp only [settle, State.mapLinks, Vector.getElem_ofFn, transition_eq_false h, Bool.and_false,
      Bool.false_eq_true, if_false]
    split <;> rfl
  exact congrArg (fun v => { t with links := v }) hf

theorem boundRecord_congr {s t : State} (hs : t.slots = s.slots) (hl : t.lines = s.lines) (e : LineId) :
    t.boundRecord e = s.boundRecord e := by
  simp only [State.boundRecord, State.named, State.resolve, hs, hl]

theorem pends_congr {s t : State} {l : SessionId} (hk : (t.links[l]).causes = (s.links[l]).causes)
    (hj : t.jobs = s.jobs) (hs : t.slots = s.slots) (hl : t.lines = s.lines)
    (hx : (t.sessions[l]).map Session.changed = (s.sessions[l]).map Session.changed) (k : NoticeKind) :
    t.pends l k = s.pends l k := by
  cases k with
  | linkFault => simp only [State.pends, hk]
  | jobDone => simp only [State.pends, State.anyJob, hj]
  | targetEvent => simp only [State.pends, boundRecord_congr hs hl, hl]
  | directoryChange =>
    simp only [State.pends]
    cases ht : t.sessions[l] <;> cases hs' : s.sessions[l] <;> simp_all

theorem anyJob_eq_true {s : State} {p : JobId → Job → Bool} :
    s.anyJob p = true ↔ ∃ j x, (s.jobs[j]).job = some x ∧ p j x = true := by
  simp only [State.anyJob, List.any_eq_true, List.mem_finRange, true_and]
  refine exists_congr fun j => ?_
  cases h : (s.jobs[j]).job <;> simp

/-- The condition of TARGET_EVENT, said by lines and records (R148). -/
theorem pends_targetEvent {s : State} {l : SessionId} :
    s.pends l .targetEvent = true ↔
      ∃ (e : LineId) (r : TargetRecord), (s.lines[e]).flag = true ∧ s.boundRecord e = some r ∧
        r.ownedBy l = true := by
  simp only [State.pends, List.any_eq_true, List.mem_finRange, true_and, Bool.and_eq_true]
  refine exists_congr fun e => ?_
  cases h : s.boundRecord e <;> simp

/-- No kind of `t` pends anew when no cause set is filled, no job becomes DONE for a session, no owned record's line
is flagged anew, and no changed set is filled. -/
theorem quieter_intro {s t : State}
    (hk : ∀ l : LinkId, (t.links[l]).causes ≠ 0#7 → (s.links[l]).causes ≠ 0#7)
    (hj : ∀ (j : JobId) (x : Job) (l : SessionId), (t.jobs[j]).job = some x → x.isDone = true →
      x.session = some l → ∃ y, (s.jobs[j]).job = some y ∧ y.isDone = true ∧ y.session = some l)
    (he : ∀ (e : LineId) (r : TargetRecord) (l : SessionId), (t.lines[e]).flag = true →
      t.boundRecord e = some r → r.ownedBy l = true →
      (s.lines[e]).flag = true ∧ ∃ q, s.boundRecord e = some q ∧ q.ownedBy l = true)
    (hx : ∀ (l : SessionId) (x y : Session), s.sessions[l] = some x → t.sessions[l] = some y →
      y.changed ≠ 0#4 → x.changed ≠ 0#4) : t.quieter s := by
  intro l k ho hp
  cases k with
  | linkFault => simp only [State.pends, decide_eq_true_eq] at hp ⊢; exact hk l hp
  | jobDone =>
    simp only [State.pends, anyJob_eq_true, Bool.and_eq_true, decide_eq_true_eq] at hp ⊢
    obtain ⟨j, x, h1, h2, h3⟩ := hp
    obtain ⟨y, h4⟩ := hj j x l h1 h2 h3
    exact ⟨j, y, h4⟩
  | targetEvent =>
    rw [pends_targetEvent] at hp ⊢
    obtain ⟨e, r, h1, h2, h3⟩ := hp
    obtain ⟨h4, q, h5⟩ := he e r l h1 h2 h3
    exact ⟨e, q, h4, h5⟩
  | directoryChange =>
    simp only [State.isOpen] at ho
    simp only [State.pends] at hp ⊢
    obtain h | ⟨x, h⟩ := Option.eq_none_or_eq_some (s.sessions[l])
    · simp [h] at ho
    · obtain h' | ⟨y, h'⟩ := Option.eq_none_or_eq_some (t.sessions[l])
      · simp [h'] at hp
      · simp only [h', decide_eq_true_eq] at hp
        simp only [h, decide_eq_true_eq]
        exact hx l x y h h' hp

/-- The same for a state with the jobs, records and lines of `s`. -/
theorem quieter_of {s t : State} (hj : t.jobs = s.jobs) (hs : t.slots = s.slots) (hl : t.lines = s.lines)
    (hk : ∀ l : LinkId, (t.links[l]).causes ≠ 0#7 → (s.links[l]).causes ≠ 0#7)
    (hx : ∀ (l : SessionId) (x y : Session), s.sessions[l] = some x → t.sessions[l] = some y →
      y.changed ≠ 0#4 → x.changed ≠ 0#4) : t.quieter s :=
  quieter_intro hk (fun j x _ h1 h2 h3 => ⟨x, by rwa [hj] at h1, h2, h3⟩)
    (fun e r _ h1 h2 h3 => ⟨by rwa [hl] at h1, r, by rwa [boundRecord_congr hs hl] at h2, h3⟩) hx

/-- The same for a state that differs from `s` outside the links, sessions, jobs, records and lines. -/
theorem quieter_same {s t : State} (hj : t.jobs = s.jobs) (hs : t.slots = s.slots) (hl : t.lines = s.lines)
    (hk : t.links = s.links) (hx : t.sessions = s.sessions) : t.quieter s :=
  quieter_of hj hs hl (fun l h => by rwa [hk] at h) fun l x y h1 h2 h3 => by
    rw [hx, h1] at h2; cases h2; exact h3

theorem noticeByte_congr {s t : State} {l : SessionId} (hp : ∀ k, t.pends l k = s.pends l k)
    (hx : (t.sessions[l]).isSome = (s.sessions[l]).isSome) : t.noticeByte l = s.noticeByte l := by
  have hp' : t.pends l = s.pends l := funext hp
  simp only [State.noticeByte, State.topNotice, hp']
  cases ht : t.sessions[l] <;> cases hs : s.sessions[l] <;> simp_all

/-! ### Handling a frame -/

@[simp] theorem Request.ofByte_code (r : Request) : Request.ofByte r.code = some r := by
  cases r <;> decide

theorem State.replayOf_eq_none {s : State} {l : SessionId} {seq : Byte} (h : s.storedSeq l ≠ some seq) :
    s.replayOf l seq = none := by
  simp only [State.storedSeq, State.replayOf] at *
  cases hx : s.sessions[l] with
  | none => rfl
  | some x =>
    cases hy : x.stored with
    | none => simp [hy]
    | some y => simp_all

theorem pends_handed (u : State) (l k : SessionId) (body : List Byte) (f : Option LinkFormat) (q : NoticeKind) :
    (u.handed l body f).pends k q = u.pends k q := by
  refine pends_congr (s := u) (t := u.handed l body f) (l := k) ?_ rfl rfl rfl rfl q
  simp only [State.handed, Fin.getElem_fin, Vector.getElem_set]
  split <;> simp_all

theorem pends_responds (u : State) (l k : SessionId) (code seq : Byte) (o : OutcomeCode) (payload : List Byte)
    (f : Option LinkFormat) (q : NoticeKind) :
    (u.responds l code seq o payload f).pends k q = u.pends k q := by
  rw [← pends_handed u l k (replyBytes code seq o (u.noticeByte l) payload) f q]
  refine pends_congr (s := u.handed l (replyBytes code seq o (u.noticeByte l) payload) f)
    (t := u.responds l code seq o payload f) (l := k) rfl rfl rfl rfl ?_ q
  simp only [State.responds, State.handed]
  obtain hx | ⟨x, hx⟩ := Option.eq_none_or_eq_some (u.sessions[l])
  · simp only [hx]
  · simp only [hx, Fin.getElem_fin, Vector.getElem_set]
    split
    · next h => simp only [← h]; simp only [Fin.getElem_fin] at hx; simp [hx]
    · rfl

theorem quieter_responds {u s : State} (h : u.quieter s) (l : LinkId) (code seq : Byte) (o : OutcomeCode)
    (payload : List Byte) (f : Option LinkFormat) : (u.responds l code seq o payload f).quieter s :=
  fun k q ho hp => h k q ho (by rwa [pends_responds] at hp)

/-- The reply of an answer that is not CLOSE's, built, stored and handed over. -/
theorem fresh_eq_responds {s : State} {l : LinkId} {r : Option Request} {seq : Byte} {ps : List Byte}
    {run : List Byte → State → Answer} (hq : (s.execute l r ps run).quiet = false) :
    s.fresh l r seq ps run =
      (s.execute l r ps run).state.responds l (replyCode r) seq (s.execute l r ps run).code
        (s.execute l r ps run).payload (s.execute l r ps run).format := by
  unfold State.fresh
  generalize s.execute l r ps run = a at *
  have hb : a.body l r seq = replyBytes (replyCode r) seq a.code (a.state.noticeByte l) a.payload := by
    simp [Answer.body, hq, replyBytes]
  simp only [hb, State.responds, State.handed, State.store, State.updLink, Hlu.handReply]
  obtain hx | ⟨x, hx⟩ := Option.eq_none_or_eq_some (a.state.sessions[l])
  · simp only [hx]
  · simp only [hx]; rfl

/-- A new request is executed, answered and settled. -/
theorem serve_asked {s : State} {l : LinkId} {code seq : Byte} {ps : List Byte} (h : s.asked l code seq ps)
    (r : Option Request) (hr : Request.ofByte code = r) (run : List Byte → State → Answer) :
    s.serve l r run = settle s (s.fresh l r seq ps run) := by
  obtain ⟨hl, hs, hn⟩ := h
  simp only [State.serve, hs, hl, hr, decide_true, Bool.and_self, if_true, State.handle,
    State.replayOf_eq_none hn]

theorem execute_run {s : State} {l : LinkId} {q : Request} {ps : List Byte} (hf : q.fits ps = true)
    (ho : s.isOpen l ∨ q.sessionless = true) (run : List Byte → State → Answer) :
    s.execute l (some q) ps run = run ps s := by
  simp only [State.execute, hf, Bool.not_true, Bool.false_eq_true, if_false]
  rcases ho with h | h
  · simp only [State.isOpen] at h
    cases hx : s.sessions[l] <;> simp_all
  · simp [h]

/-- A request refused by length, session or command code: the reply alone. -/
theorem serve_refused {s : State} {l : LinkId} {code seq : Byte} {ps : List Byte} (h : s.asked l code seq ps)
    {r : Option Request} (hr : Request.ofByte code = r) {run : List Byte → State → Answer} {o : OutcomeCode}
    (he : s.execute l r ps run = s.refuse o) :
    s.serve l r run = s.responds l (replyCode r) seq o [] := by
  rw [serve_asked h r hr, fresh_eq_responds (by rw [he]; rfl), he]
  exact settle_of_quieter (quieter_responds (State.quieter_refl s) _ _ _ _ _ _)

/-- A new request with good length and a session where it needs one: the answer of its owning block, and the
notices that the whole event queues. -/
theorem serve_answer {s u : State} {l : LinkId} {q : Request} {seq : Byte} {ps : List Byte}
    (h : s.asked l q.code seq ps) (hf : q.fits ps = true) (ho : s.isOpen l ∨ q.sessionless = true)
    {run : List Byte → State → Answer} {o : OutcomeCode} {payload : List Byte} {f : Option LinkFormat}
    (ha : run ps s = ⟨o, payload, u, f, false⟩) :
    s.serve l (some q) run = settle s (u.responds l (q.code + 0x80#8) seq o payload f) := by
  rw [serve_asked h (some q) (Request.ofByte_code q), fresh_eq_responds (by rw [execute_run hf ho, ha]),
    execute_run hf ho, ha]
  rfl

/-- The same for an execution that makes no kind pending. -/
theorem serve_quiet {s u : State} {l : LinkId} {q : Request} {seq : Byte} {ps : List Byte}
    (h : s.asked l q.code seq ps) (hf : q.fits ps = true) (ho : s.isOpen l ∨ q.sessionless = true)
    {run : List Byte → State → Answer} {o : OutcomeCode} {payload : List Byte} {f : Option LinkFormat}
    (ha : run ps s = ⟨o, payload, u, f, false⟩) (hu : u.quieter s) :
    s.serve l (some q) run = u.responds l (q.code + 0x80#8) seq o payload f := by
  rw [serve_answer h hf ho ha, settle_of_quieter (quieter_responds hu _ _ _ _ _ _)]

/-- The same for an execution that changes nothing. -/
theorem serve_unchanged {s : State} {l : LinkId} {q : Request} {seq : Byte} {ps : List Byte}
    (h : s.asked l q.code seq ps) (hf : q.fits ps = true) (ho : s.isOpen l ∨ q.sessionless = true)
    {run : List Byte → State → Answer} {o : OutcomeCode} {payload : List Byte} {f : Option LinkFormat}
    (ha : run ps s = ⟨o, payload, s, f, false⟩) :
    s.serve l (some q) run = s.responds l (q.code + 0x80#8) seq o payload f :=
  serve_quiet h hf ho ha (State.quieter_refl s)

end Sys2Proof.Machine
end

