-- ==== Sys2Proof/Laws/Effects.lean ====
section
/-! SUPPORT. What the effects of commands do, said once each: equal states, operand bytes, catalogues, and the
effects that several commands share. -/

namespace Sys2Proof.Machine

theorem readU16_def (hi lo : Byte) : readU16 hi lo = hi.toNat * 256 + lo.toNat := rfl

theorem le7 {x : Byte} (h : x.toNat ≤ 7) : x.toNat < 8 := by omega

theorem onoff_some {p : Byte} (h : p.toNat ≤ 1) : p = 0#8 ∨ p = 1#8 := by
  have : p.toNat = 0 ∨ p.toNat = 1 := by omega
  rcases this with h | h
  · left; exact BitVec.eq_of_toNat_eq h
  · right; exact BitVec.eq_of_toNat_eq h

theorem chainOf_of {b : Byte} {c : ChainId} (h : b.toNat = c.val) : chainOf b = some c := by
  have : b.toNat < 4 := h ▸ c.isLt
  simp only [chainOf, this, dif_pos, Option.some.injEq]
  exact Fin.ext h

theorem chainOf_none {b : Byte} (h : 3 < b.toNat) : chainOf b = none := by
  have : ¬ b.toNat < 4 := by omega
  simp [chainOf, this]

theorem chainErase_getLsbD (w : BitVec 4) (c k : ChainId) :
    (chainErase w c).getLsbD k.val = if k = c then false else w.getLsbD k.val := by
  revert w c k; decide

theorem isOpen_of {s : State} {l : SessionId} {y : Session} (h : s.sessions[l] = some y) : s.isOpen l := by
  simp [State.isOpen, h]

theorem flag_or (a b : Bool) : flagByte a ||| (flagByte b <<< 1) =
    ((if a then 1#8 else 0#8) ||| (if b then 2#8 else 0#8)) := by
  cases a <;> cases b <;> decide

theorem chainErase_ne (w : BitVec 4) (c : ChainId) : chainErase w c ≠ 0#4 → w ≠ 0#4 := by
  revert w c; decide

theorem bytes_of_pair (hi lo : Byte) : u16 (hi.toNat * 256 + lo.toNat) = [hi, lo] := by
  have h1 := hi.isLt
  have h2 := lo.isLt
  simp only [u16]
  congr 1
  · apply BitVec.eq_of_toNat_eq; simp; omega
  · congr 1; apply BitVec.eq_of_toNat_eq; simp; exact h2

theorem flags4 (a b : Bool) (l : Option LineId) (f : LineId → Bool) :
    flagByte a ||| (flagByte b <<< 1) ||| (flagByte l.isSome <<< 2) |||
        (flagByte (match l with
          | some e => f e
          | none => false) <<< 3) =
    ((if a then 1#8 else 0#8) ||| (if b then 2#8 else 0#8) ||| (match l with
              | some e => 4#8 ||| (if f e then 8#8 else 0#8)
              | none => 0#8)) := by
  cases l with
  | none => cases a <;> cases b <;> rfl
  | some e =>
    have : ∀ a b g : Bool, flagByte a ||| (flagByte b <<< 1) ||| (flagByte true <<< 2) ||| (flagByte g <<< 3) =
      ((if a then 1#8 else 0#8) ||| (if b then 2#8 else 0#8) ||| (4#8 ||| (if g then 8#8 else 0#8))) := by decide
    exact this a b (f e)

theorem finRange_eight : List.finRange 8 = 0 :: (List.finRange 7).map Fin.succ := by decide

theorem catalogue_eq (r : TargetRecord) : r.catalogue =
    (0, r.bypass) :: (List.finRange 7).filterMap fun k => (r.entries[k]).map fun x => (k.succ, x) := by
  simp only [TargetRecord.catalogue, finRange_eight, List.filterMap_cons, List.filterMap_map]
  simp only [TargetRecord.entry]
  simp

@[simp] theorem State.withRecordState_power (s : State) (i : SlotId) (r : TargetRecord) (x : RecordState) :
    (s.withRecordState i r x).power = s.power := rfl
@[simp] theorem State.withRecordState_resetLow (s : State) (i : SlotId) (r : TargetRecord) (x : RecordState) :
    (s.withRecordState i r x).resetLow = s.resetLow := rfl
@[simp] theorem State.withRecordState_straps (s : State) (i : SlotId) (r : TargetRecord) (x : RecordState) :
    (s.withRecordState i r x).straps = s.straps := rfl
@[simp] theorem State.withRecordState_tickRunning (s : State) (i : SlotId) (r : TargetRecord) (x : RecordState) :
    (s.withRecordState i r x).tickRunning = s.tickRunning := rfl
@[simp] theorem State.withRecordState_links (s : State) (i : SlotId) (r : TargetRecord) (x : RecordState) :
    (s.withRecordState i r x).links = s.links := rfl
@[simp] theorem State.withRecordState_sessions (s : State) (i : SlotId) (r : TargetRecord) (x : RecordState) :
    (s.withRecordState i r x).sessions = s.sessions := rfl
@[simp] theorem State.withRecordState_profiles (s : State) (i : SlotId) (r : TargetRecord) (x : RecordState) :
    (s.withRecordState i r x).profiles = s.profiles := rfl
@[simp] theorem State.withRecordState_jobs (s : State) (i : SlotId) (r : TargetRecord) (x : RecordState) :
    (s.withRecordState i r x).jobs = s.jobs := rfl
@[simp] theorem State.withRecordState_chains (s : State) (i : SlotId) (r : TargetRecord) (x : RecordState) :
    (s.withRecordState i r x).chains = s.chains := rfl
@[simp] theorem State.withRecordState_lines (s : State) (i : SlotId) (r : TargetRecord) (x : RecordState) :
    (s.withRecordState i r x).lines = s.lines := rfl
@[simp] theorem State.withRecordState_pending (s : State) (i : SlotId) (r : TargetRecord) (x : RecordState) :
    (s.withRecordState i r x).pending = s.pending := rfl
@[simp] theorem State.withRecordState_getElem (s : State) (i k : SlotId) (r : TargetRecord) (x : RecordState) :
    (s.withRecordState i r x).slots[k.val] =
      if k = i then ⟨(s.slots[i.val]).generation, some { r with state := x }⟩ else s.slots[k.val] := by
  simp only [State.withRecordState, Vector.getElem_set, Fin.getElem_fin, Fin.ext_iff, eq_comm]

theorem withRecordState_eq {s : State} {i : SlotId} {r : TargetRecord} (h : (s.slots[i]).record = some r)
    (x : RecordState) : s.updRecord i (fun y => { y with state := x }) = s.withRecordState i r x := by
  simp only [State.updRecord, State.withRecordState, h, Option.map_some]

theorem state_ext {s t : State} (h1 : s.power = t.power) (h2 : s.resetLow = t.resetLow) (h3 : s.straps = t.straps)
    (h4 : s.tickRunning = t.tickRunning) (h5 : s.links = t.links) (h6 : s.sessions = t.sessions)
    (h7 : s.slots = t.slots) (h8 : s.profiles = t.profiles) (h9 : s.jobs = t.jobs) (h10 : s.chains = t.chains)
    (h11 : s.lines = t.lines) (h12 : s.pending = t.pending) : s = t := by
  cases s; cases t; simp_all

theorem vector_ext {α : Type} {n : Nat} {v w : Vector α n} (h : ∀ i : Fin n, v[i.val] = w[i.val]) : v = w :=
  Vector.ext fun i hi => h ⟨i, hi⟩

theorem set_getElem {α : Type} {n : Nat} (v : Vector α n) (i k : Fin n) (x : α) :
    (v.set i x)[k.val] = if k = i then x else v[k.val] := by
  by_cases h : k = i
  · subst h; simp
  · have : ¬ i.val = k.val := fun e => h (Fin.ext e.symm)
    simp [h, this]

/-- An effect under which no record gains an owner, no line a flag or another binding, no cause set or changed set
an element, and no session a DONE job, makes no kind pending. -/
theorem quieter_records {s t : State}
    (hk : ∀ l : LinkId, (t.links[l.val]).causes ≠ 0#7 → (s.links[l.val]).causes ≠ 0#7)
    (hj : ∀ (j : JobId) (x : Job) (l : SessionId), (t.jobs[j.val]).job = some x → x.isDone = true →
      x.session = some l → ∃ y, (s.jobs[j.val]).job = some y ∧ y.isDone = true ∧ y.session = some l)
    (hg : ∀ i : SlotId, (t.slots[i.val]).record.isSome = true →
      (t.slots[i.val]).generation = (s.slots[i.val]).generation)
    (hr : ∀ (i : SlotId) (r : TargetRecord) (l : SessionId), (t.slots[i.val]).record = some r →
      r.state.owner = some l → ∃ q, (s.slots[i.val]).record = some q ∧ q.state.owner = some l)
    (he : ∀ e : LineId, (t.lines[e.val]).flag = true →
      (s.lines[e.val]).flag = true ∧ (t.lines[e.val]).binding = (s.lines[e.val]).binding)
    (hx : ∀ (l : SessionId) (x y : Session), s.sessions[l.val] = some x → t.sessions[l.val] = some y →
      y.changed ≠ 0#4 → x.changed ≠ 0#4) : t.quieter s := by
  refine quieter_intro hk hj ?_ hx
  intro e r l h1 h2 h3
  obtain ⟨h4, h5⟩ := he e h1
  refine ⟨h4, ?_⟩
  simp only [Fin.getElem_fin, State.boundRecord, h5, Option.bind_eq_some_iff, Option.map_eq_some_iff] at h2 ⊢
  obtain ⟨k, hk, ⟨i, r'⟩, hn, rfl⟩ := h2
  obtain ⟨h6, h7⟩ := State.named_eq_some.mp hn
  simp only [TargetRecord.ownedBy, decide_eq_true_eq] at h3
  obtain ⟨q, hq, ho⟩ := hr i r' l h6 h3
  refine ⟨q, ⟨k, hk, (i, q), State.named_eq_some.mpr ⟨hq, ?_⟩, rfl⟩, by simp [TargetRecord.ownedBy, ho]⟩
  rw [h7]
  simp only [State.handleOf, Fin.getElem_fin, hg i (by rw [Fin.getElem_fin] at h6; rw [h6]; rfl)]

/-- Jobs that a freeing leaves alone are found as before it. -/
theorem anyJob_freeJobs {s : State} {p q : JobId → Job → Bool} (h : ∀ j x, q j x = true → p j x = false) :
    (s.freeJobs p).anyJob q = s.anyJob q := by
  rw [Bool.eq_iff_iff, anyJob_eq_true, anyJob_eq_true]
  refine exists_congr fun j => exists_congr fun x => ?_
  simp only [Fin.getElem_fin, State.freeJobs_getElem]
  constructor
  · rintro ⟨h1, h2⟩
    split at h1
    · simp [JobSlot.freed] at h1
    · exact ⟨h1, h2⟩
  · rintro ⟨h1, h2⟩
    have : s.jobFits p j = false := by
      simp only [State.jobFits, Fin.getElem_fin, h1]; exact h j x h2
    simp [this, h1, h2]

theorem filter_single {α} [DecidableEq α] {l : List α} {a : α} (hp : l.Nodup) (ha : a ∈ l) :
    l.filter (fun b => decide (b = a)) = [a] := by
  induction l with
  | nil => simp at ha
  | cons b l ih =>
    simp only [List.nodup_cons] at hp
    by_cases hb : b = a
    · subst hb
      have : l.filter (fun c => decide (c = b)) = [] := by
        rw [List.filter_eq_nil_iff]; intro c hc; simp; rintro rfl; exact hp.1 hc
      simp [this]
    · have : a ∈ l := by simpa [Ne.symm hb] using ha
      simp [hb, ih hp.2 this]

theorem chainRecords_filter_single {s : State} (hd : s.placesDistinct) {i : SlotId} {r : TargetRecord} {c : ChainId}
    (hr : (s.slots[i]).record = some r) (g : TargetRecord → Bool) :
    (s.chainRecords c).filter (fun ir => decide (ir.1 = i) && g ir.2) =
      if c = r.chain ∧ g r = true then [(i, r)] else [] := by
  split
  · next h =>
    have hm := State.mem_chainRecords_of hd hr h.1.symm
    have hn : (s.chainRecords c).Nodup := by
      refine (s.chainRecords_pairwise c).imp ?_
      rintro a b h rfl; exact lt_irrefl _ h
    have : (s.chainRecords c).filter (fun ir => decide (ir.1 = i) && g ir.2) =
        (s.chainRecords c).filter fun b => decide (b = (i, r)) := by
      apply List.filter_congr
      rintro ⟨j, q⟩ hj
      have := (State.chainRecords_sound hj).1
      by_cases hij : j = i
      · subst hij; rw [hr] at this; cases this; simp [h.2]
      · simp [hij]
    rw [this, filter_single hn hm]
  · next h =>
    rw [List.filter_eq_nil_iff]
    rintro ⟨j, q⟩ hj
    have := State.chainRecords_sound hj
    by_cases hij : j = i
    · subst hij; rw [hr] at this; cases this.1
      simp only [decide_true, Bool.true_and]
      intro hg; exact h ⟨this.2.symm, hg⟩
    · simp [hij]

/-! ### Requests -/

theorem gate_working {p : ChainPhase} (h : p.working) : p.gate = none := by
  rcases h with h | ⟨x, h⟩ <;> subst h <;> rfl

theorem answer_unchanged {s : State} {l : LinkId} {q : Request} {seq : Byte} {ps : List Byte}
    {run : List Byte → State → Answer} {o : OutcomeCode} {pl : List Byte}
    (h : s.asked l q.code seq ps) (hf : q.fits ps = true) (ho : s.isOpen l ∨ q.sessionless = true)
    (ha : run ps s = ⟨o, pl, s, none, false⟩) :
    (Host.Outcome.next (s.serve l (some q) run) : Result) = .next (s.responds l (q.code + 0x80#8) seq o pl) :=
  congrArg Host.Outcome.next (serve_unchanged h hf ho ha)

theorem enterJob_eq (s : State) (j : JobId) (l : SessionId) (c : ChainId) (kind : JobKind) (idle wait : Nat) :
    s.enterJob j l c kind idle wait = s.entered j l c kind idle wait := rfl

theorem quieter_entered {s : State} {j : JobId} (l : SessionId) (c : ChainId) (kind : JobKind) (idle wait : Nat) :
    (s.enterJob j l c kind idle wait).quieter s := by
  refine quieter_records (fun l h => by simpa using h) ?_ (fun _ _ => by simp) ?_ (fun e h => by simpa using h) ?_
  · intro k x m h1 h2 h3
    rw [State.enterJob_getElem] at h1
    split at h1
    · cases h1; simp [Job.isDone] at h2
    · exact ⟨x, h1, h2, h3⟩
  · intro i r m h1 h2; exact ⟨r, by simpa using h1, h2⟩
  · intro m x y h1 h2 h3
    rw [State.enterJob_sessions, h1] at h2; cases h2; exact h3

theorem accept_enters {s : State} {l : LinkId} {q : Request} {seq : Byte} {ps : List Byte}
    {run : List Byte → State → Answer} {i : Instr} (hi : exec i s = .next (s.serve l (some q) run))
    (h : s.asked l q.code seq ps) (hf : q.fits ps = true) (ho : s.isOpen l)
    {c : ChainId} {kind : JobKind} {idle wait : Nat}
    (ha : run ps s = s.accept l c kind idle wait) :
    s.EntersJob i l (q.code + 0x80#8) seq c kind idle wait := by
  refine ⟨fun h4 => ?_, fun h4 hn => ?_, fun j h4 hj => ?_⟩
  · rw [hi]
    refine answer_unchanged h hf (.inl ho) ?_
    rw [ha, State.accept, if_pos (show Config.jobLimit ≤ _ from h4)]; rfl
  · rw [hi]
    refine answer_unchanged h hf (.inl ho) ?_
    rw [ha, State.accept, if_neg (by simpa [Config.jobLimit] using h4)]
    have : s.freeJobSlot = none := by
      rw [State.freeJobSlot, List.find?_eq_none]
      intro j _
      have := hn j
      simpa using this
    rw [this]; rfl
  · rw [hi]
    refine congrArg Host.Outcome.next ?_
    rw [← enterJob_eq]
    have hn : (s.jobs[j.val]).job = none := hj.1
    refine serve_quiet h hf (.inl ho) ?_ (quieter_entered _ _ _ _ _)
    rw [ha, State.accept, if_neg (by simpa [Config.jobLimit] using h4)]
    have : s.freeJobSlot = some j := by
      rw [State.freeJobSlot, List.find?_eq_some_iff_append]
      refine ⟨by simpa using hn, (List.finRange 16).take j.val, (List.finRange 16).drop (j.val + 1), ?_, ?_⟩
      · have h1 := (List.take_append_drop j.val (List.finRange 16)).symm
        rw [List.drop_eq_getElem_cons (by simp)] at h1
        simpa using h1
      · intro k hk
        obtain ⟨m, hm, rfl⟩ := List.mem_take_iff_getElem.mp hk
        have := hj.2 ⟨m, by simp at hm; omega⟩ (by simp [Fin.lt_def]; simp at hm; omega)
        simpa [Option.isSome_iff_ne_none] using this
    rw [this]; rfl

end Sys2Proof.Machine
end

