-- ==== Sys2Proof/Laws/Runs.lean ====
section
/-! SUPPORT. Everything a request can do, said once: the effects that the owning blocks can have, and what the
session adds to them. A statement about all requests is a case analysis of `RequestEffect`. -/

namespace Sys2Proof.Machine

/-- A job of the kind may enter the chain's queue for the session: its target is a record of that chain that the session
owns, or it is a chain reset (R80 to R82). -/
def State.enterable (s : State) (l : SessionId) (c : ChainId) (kind : JobKind) : Prop :=
  (∃ (h : Handle) (i : SlotId) (r : TargetRecord), kind.target = some h ∧ s.named h = some (i, r) ∧ r.ownedBy l = true ∧
    r.chain = c ∧ (s.chains[c]).phase.gate = none) ∨
  (kind = .chainReset ∧ (s.chains[c]).phase.resetGate = none)

/-- The effects that executing a request of a link can have on the state, before its reply is built. -/
inductive RequestEffect (q : Request) (l : LinkId) (s : State) : State → Prop
  | unchanged : RequestEffect q l s s
  | opened (x : Session) : s.sessions[l] = none → x.changed = 0#4 → RequestEffect q l s (s.setSession l (some x))
  | closed : RequestEffect q l s (s.endSession l)
  | causesEmptied : RequestEffect q l s (s.updLink l fun x => { x with causes := 0#7 })
  | acknowledged (c : ChainId) :
      RequestEffect q l s
        (s.setSession l ((s.sessions[l]).map fun x => { x with changed := chainErase x.changed c }))
  | claimed (i : SlotId) (r : TargetRecord) : s.isOpen l → (s.slots[i]).record = some r → r.state = .available →
      (s.chains[r.chain]).phase.gate = none →
      RequestEffect q l s (s.updRecord i fun x => { x with state := .claimed l })
  | released (i : SlotId) (r : TargetRecord) : (s.slots[i]).record = some r → r.ownedBy l = true →
      RequestEffect q l s (s.releaseClaim l i)
  | described (i : SlotId) (r : TargetRecord) (n : Nat) (p : LengthPlan) (es : List Edit) :
      (s.slots[i]).record = some r → r.ownedBy l = true → (s.chains[r.chain]).phase.gate = none →
      s.busyFor (s.handleOf i) = false → s.lengthPlan i r n = some p →
      editsRefused r (p.given.or r.irLength) es = none →
      RequestEffect q l s (s.writeDescription i p es)
  | entered (j : JobId) (c : ChainId) (kind : JobKind) (idle wait : Nat) : s.isOpen l → s.freeJobSlot = some j →
      s.jobsHeld l < Config.jobLimit →
      s.enterable l c kind →
      RequestEffect q l s (s.enterJob j l c kind idle wait)
  | freed (j : JobId) (x : Job) : (s.jobs[j]).job = some x → x.session = some l → x.isRunning = false →
      RequestEffect q l s (s.freeJobs fun k _ => decide (k = j))
  | rescanned (c : ChainId) : q = .rescan → s.rescanAllowed l c = true → RequestEffect q l s (s.rescanChain c)
  | configured (c : ChainId) (x : TckSettings) :
      RequestEffect q l s (s.updChain c fun y => { y with settings := x })
  | profiled (ps : List Profile) : RequestEffect q l s { s with profiles := ps }
  | bound (h : Handle) (i : SlotId) (r : TargetRecord) (e : LineId) (p : Polarity) (m : ReportMode) :
      s.named h = some (i, r) → r.ownedBy l = true → s.lineTaken l e = false →
      RequestEffect q l s (s.bindLine h e p m)
  | unbound (h : Handle) (i : SlotId) (r : TargetRecord) : s.named h = some (i, r) → r.ownedBy l = true →
      RequestEffect q l s (s.unbindRecord h)
  | reported :
      RequestEffect q l s (s.mapLines fun e x => if s.reportsLine l e then { x with flag := false } else x)

/-! ### Each request -/

theorem runOpen_effect (q : Request) (l : LinkId) (ps : List Byte) (s : State) : RequestEffect q l s (runOpen l ps s).state := by
  unfold runOpen
  repeat' split
  all_goals first | exact .unchanged | skip
  next h => exact .opened _ (by simpa using h) rfl

theorem runLinkFormat_effect (q : Request) (l : LinkId) (ps : List Byte) (s : State) :
    RequestEffect q l s (runLinkFormat ps s).state := by
  unfold runLinkFormat; split <;> exact .unchanged

theorem runList_effect (q : Request) (l : LinkId) (ps : List Byte) (s : State) : RequestEffect q l s (runList l ps s).state := by
  unfold runList
  repeat' split
  all_goals first | exact .unchanged | exact .acknowledged _

theorem runLookup_effect (q : Request) (l : LinkId) (ps : List Byte) (s : State) : RequestEffect q l s (runLookup ps s).state := by
  unfold runLookup; split <;> exact .unchanged

theorem runFind_effect (q : Request) (l : LinkId) (ps : List Byte) (s : State) : RequestEffect q l s (runFind ps s).state := by
  unfold runFind; split <;> exact .unchanged

theorem bind_named {s : State} {o : Option Handle} {i : SlotId} {r : TargetRecord} (h : o.bind s.named = some (i, r)) :
    (s.slots[i]).record = some r := by
  obtain ⟨k, _, hk⟩ := Option.bind_eq_some_iff.1 h
  exact (State.named_eq_some.1 hk).1

theorem runClaim_effect (q : Request) {l : LinkId} (ps : List Byte) {s : State} (ho : s.isOpen l) : RequestEffect q l s (runClaim l ps s).state := by
  unfold runClaim
  split
  · next i r h =>
    split
    · exact .unchanged
    · next hg =>
      split
      · next hs => exact .claimed i r ho (bind_named h) hs hg
      · split <;> exact .unchanged
      · exact .unchanged
      · exact .unchanged
  · exact .unchanged

theorem runRelease_effect (q : Request) (l : LinkId) (ps : List Byte) (s : State) :
    RequestEffect q l s (runRelease l ps s).state := by
  unfold runRelease
  split
  · next i r h =>
    split
    · next ho => exact .released i r (bind_named h) ho
    · exact .unchanged
  · exact .unchanged

theorem describeRecord_effect (q : Request) {l : SessionId} {s : State} {i : SlotId} {r : TargetRecord} (n : Nat)
    (es : List Edit) (h : (s.slots[i]).record = some r) :
    RequestEffect q l s (s.describeRecord l i r n es).state := by
  unfold State.describeRecord
  split
  · exact .unchanged
  · next hg =>
    split
    · exact .unchanged
    · next ho =>
      split
      · exact .unchanged
      · next hb =>
        split
        · exact .unchanged
        · split
          · exact .unchanged
          · next p hp =>
            split
            · exact .unchanged
            · next he => exact .described i r n p es h (by simpa using ho) hg (by simpa using hb) hp he

theorem runDescribe_effect (q : Request) (l : LinkId) (ps : List Byte) (s : State) :
    RequestEffect q l s (runDescribe l ps s).state := by
  unfold runDescribe
  split
  · split
    · exact .unchanged
    · split
      · next i r h => exact describeRecord_effect q _ _ (State.named_eq_some.1 h).1
      · exact .unchanged
  · exact .unchanged

theorem accept_effect {q : Request} {l : SessionId} {s : State} {c : ChainId} {kind : JobKind} {idle wait : Nat}
    (ho : s.isOpen l) (h : s.enterable l c kind) :
    RequestEffect q l s (s.accept l c kind idle wait).state := by
  unfold State.accept
  split
  · exact .unchanged
  · next hn =>
    split
    · next j hj => exact .entered j c kind idle wait ho hj (by omega) h
    · exact .unchanged

theorem runScanIr_effect (q : Request) {l : LinkId} (ps : List Byte) {s : State} (ho : s.isOpen l) :
    RequestEffect q l s (runScanIr l ps s).state := by
  unfold runScanIr
  split
  · split
    · unfold State.scanIrOf
      split
      · exact .unchanged
      · next i r h =>
        split
        · exact .unchanged
        · next hg =>
          split
          · exact .unchanged
          · next hl =>
            repeat' split
            all_goals first | exact .unchanged | skip
            exact accept_effect ho (.inl ⟨_, i, r, rfl, h, by simpa using hl, rfl, hg⟩)
    · exact .unchanged
  · exact .unchanged

theorem runScanDr_effect (q : Request) {l : LinkId} (ps : List Byte) {s : State} (ho : s.isOpen l) :
    RequestEffect q l s (runScanDr l ps s).state := by
  unfold runScanDr
  split
  · unfold State.scanDrOf
    split
    · exact .unchanged
    · next i r h =>
      split
      · exact .unchanged
      · next hg =>
        split
        · exact .unchanged
        · next hl =>
          repeat' split
          all_goals first | exact .unchanged | skip
          exact accept_effect ho (.inl ⟨_, i, r, rfl, h, by simpa using hl, rfl, hg⟩)
  · exact .unchanged

theorem runChainReset_effect (q : Request) {l : LinkId} (ps : List Byte) {s : State} (ho : s.isOpen l) :
    RequestEffect q l s (runChainReset l ps s).state := by
  unfold runChainReset
  split
  · split
    · exact .unchanged
    · split
      · exact .unchanged
      · next hg =>
        split
        · exact .unchanged
        · exact accept_effect ho (.inr ⟨rfl, hg⟩)
  · exact .unchanged

theorem bind_ticketed {s : State} {l : SessionId} {o : Option Byte} {j : JobId} {x : Job}
    (h : (o.bind fun t => s.ticketed l t.toNat) = some (j, x)) :
    (s.jobs[j]).job = some x ∧ x.session = some l := by
  obtain ⟨k, _, hk⟩ := Option.bind_eq_some_iff.1 h
  have := State.ticketed_eq_some.1 hk
  exact ⟨this.1, this.2.2⟩

theorem runFetch_effect (q : Request) (l : LinkId) (ps : List Byte) (s : State) :
    RequestEffect q l s (runFetch l ps s).state := by
  unfold runFetch
  split
  · next j x h =>
    obtain ⟨hj, hs⟩ := bind_ticketed h
    split
    · next hd => exact .freed j x hj hs (by simp [Job.isRunning, hd])
    · exact .unchanged
    · exact .unchanged
  · exact .unchanged

theorem runCancel_effect (q : Request) (l : LinkId) (ps : List Byte) (s : State) :
    RequestEffect q l s (runCancel l ps s).state := by
  unfold runCancel
  split
  · next j x h =>
    obtain ⟨hj, hs⟩ := bind_ticketed h
    split
    · next hd => exact .freed j x hj hs (by simp [Job.isRunning, hd])
    · exact .unchanged
    · exact .unchanged
  · exact .unchanged

theorem runRescan_effect (l : LinkId) (ps : List Byte) (s : State) :
    RequestEffect .rescan l s (runRescan l ps s).state := by
  unfold runRescan
  repeat' split
  all_goals first | exact .unchanged | skip
  next h => exact .rescanned _ rfl h

theorem runChainConfig_effect (q : Request) (l : LinkId) (ps : List Byte) (s : State) :
    RequestEffect q l s (runChainConfig l ps s).state := by
  unfold runChainConfig
  repeat' split
  all_goals first | exact .unchanged | exact .configured _ _

theorem runProfileAdd_effect (q : Request) (l : LinkId) (ps : List Byte) (s : State) :
    RequestEffect q l s (runProfileAdd ps s).state := by
  unfold runProfileAdd
  split
  · unfold State.addProfile
    dsimp only
    repeat' split
    all_goals first | exact .unchanged | exact .profiled _
  · exact .unchanged

theorem runProfileDrop_effect (q : Request) (l : LinkId) (ps : List Byte) (s : State) :
    RequestEffect q l s (runProfileDrop ps s).state := by
  unfold runProfileDrop
  repeat' split
  all_goals first | exact .unchanged | exact .profiled _

theorem runProfileRead_effect (q : Request) (l : LinkId) (ps : List Byte) (s : State) :
    RequestEffect q l s (runProfileRead ps s).state := by
  unfold runProfileRead; split <;> exact .unchanged

theorem runBindEvent_effect (q : Request) (l : LinkId) (ps : List Byte) (s : State) :
    RequestEffect q l s (runBindEvent l ps s).state := by
  unfold runBindEvent
  split
  · split
    · split
      · exact .unchanged
      · next i r h =>
        split
        · exact .unchanged
        · next ho =>
          split
          · exact .unchanged
          · next e _ =>
            split
            · exact .unchanged
            · next ht => exact .bound _ i r e _ _ h (by simpa using ho) (by simpa using ht)
    · exact .unchanged
  · exact .unchanged

theorem runUnbindEvent_effect (q : Request) (l : LinkId) (ps : List Byte) (s : State) :
    RequestEffect q l s (runUnbindEvent l ps s).state := by
  unfold runUnbindEvent
  split
  · split
    · exact .unchanged
    · next i r h =>
      split
      · next ho => exact .unbound _ i r h ho
      · exact .unchanged
  · exact .unchanged

/-! ### The session's part -/

/-- What the session adds to an effect `u` of a request of its link: the reply stored and handed over. -/
structure Handled (l : LinkId) (u w : State) : Prop where
  power : w.power = u.power
  resetLow : w.resetLow = u.resetLow
  straps : w.straps = u.straps
  tickRunning : w.tickRunning = u.tickRunning
  slots : w.slots = u.slots
  profiles : w.profiles = u.profiles
  jobs : w.jobs = u.jobs
  chains : w.chains = u.chains
  lines : w.lines = u.lines
  pending : w.pending = u.pending
  others : ∀ o, o ≠ l → w.sessions[o] = u.sessions[o]
  closed : u.sessions[l] = none → w.sessions[l] = none
  own : ∀ x, u.sessions[l] = some x → ∃ y, w.sessions[l] = some { x with stored := y }
  links : ∃ body f,
    w.links = u.links.set l { u.links[l] with slot := .taken, waiting := some body, pendingFormat := f }

theorem handled_same (l : LinkId) (u : State) (body : List Byte) (f : Option LinkFormat) :
    Handled l u (u.updLink l (Hlu.handReply body f)) where
  power := rfl
  resetLow := rfl
  straps := rfl
  tickRunning := rfl
  slots := rfl
  profiles := rfl
  jobs := rfl
  chains := rfl
  lines := rfl
  pending := rfl
  others _ _ := rfl
  closed h := h
  own x h := ⟨x.stored, h⟩
  links := ⟨body, f, rfl⟩

theorem handled_store (l : LinkId) (u : State) (seq : Byte) (body : List Byte) (f : Option LinkFormat) :
    Handled l u ((u.store l seq body f).updLink l (Hlu.handReply body f)) := by
  obtain h | ⟨x, h⟩ := Option.eq_none_or_eq_some (u.sessions[l])
  · have : u.store l seq body f = u := by simp only [State.store, h]
    rw [this]; exact handled_same l u body f
  · have : u.store l seq body f = u.setSession l (some { x with stored := some ⟨seq, body, f⟩ }) := by
      simp only [State.store, h]
    rw [this]
    exact {
      power := rfl, resetLow := rfl, straps := rfl, tickRunning := rfl, slots := rfl, profiles := rfl, jobs := rfl
      chains := rfl, lines := rfl, pending := rfl
      others := fun o ho => by simp [State.setSession, set_getElem, ho]
      closed := fun hn => by rw [h] at hn; cases hn
      own := fun y hy => by
        rw [h] at hy; cases hy
        exact ⟨some ⟨seq, body, f⟩, by simp [State.setSession]⟩
      links := ⟨body, f, rfl⟩ }

/-- A request row does nothing, or it takes the frame of its slot, and the owning block's effect and the reply make
the state whose notices are then queued. -/
theorem serve_cases (s : State) (l : LinkId) (r : Option Request) (run : List Byte → State → Answer) :
    s.serve l r run = s ∨
      (s.live = true ∧ (∃ body, (s.links[l]).slot = .untaken body) ∧
        ∃ u w, (u = s ∨ ∃ q ps, r = some q ∧ (s.isOpen l ∨ q.sessionless = true) ∧ u = (run ps s).state) ∧
          Handled l u w ∧ s.serve l r run = settle s w) := by
  unfold State.serve
  split
  · next code seq ps hs =>
    split
    · next hl =>
      right
      simp only [Bool.and_eq_true] at hl
      refine ⟨hl.1, ⟨_, hs⟩, ?_⟩
      unfold State.handle
      split
      · exact ⟨s, _, .inl rfl, handled_same l s _ _, rfl⟩
      · refine ⟨(s.execute l r ps run).state, _, ?_, handled_store l _ seq _ _, rfl⟩
        unfold State.execute
        split
        · exact .inl rfl
        · next q =>
          split
          · exact .inl rfl
          · split
            · exact .inl rfl
            · next hn =>
              refine .inr ⟨q, ps, rfl, ?_, rfl⟩
              simp only [Bool.and_eq_true, Bool.not_eq_true', not_and, Bool.not_eq_false] at hn
              obtain hx | ⟨x, hx⟩ := Option.eq_none_or_eq_some (s.sessions[l])
              · exact .inr (hn (by rw [hx]; rfl))
              · exact .inl (isOpen_of hx)
    · exact .inl rfl
  · exact .inl rfl

/-- Everything the command of a request row can do. -/
theorem exec_row_cases (q : Request) (s : State) (l : LinkId) :
    ∃ t, exec (q.row l) s = .next t ∧
      (t = s ∨ (s.live = true ∧ (∃ body, (s.links[l]).slot = .untaken body) ∧
        ∃ u w, RequestEffect q l s u ∧ Handled l u w ∧ t = settle s w)) := by
  have go : ∀ run, exec (q.row l) s = .next (s.serve l (some q) run) →
      (∀ ps, s.isOpen l ∨ q.sessionless = true → RequestEffect q l s (run ps s).state) →
      ∃ t, exec (q.row l) s = .next t ∧
        (t = s ∨ (s.live = true ∧ (∃ body, (s.links[l]).slot = .untaken body) ∧
          ∃ u w, RequestEffect q l s u ∧ Handled l u w ∧ t = settle s w)) := by
    intro run he hr
    refine ⟨_, he, ?_⟩
    obtain h | ⟨h1, h2, u, w, h3, h4, h5⟩ := serve_cases s l (some q) run
    · exact .inl h
    · refine .inr ⟨h1, h2, u, w, ?_, h4, h5⟩
      rcases h3 with rfl | ⟨q', ps, hq, ho, rfl⟩
      · exact .unchanged
      · cases hq; exact hr ps ho
  cases q with
  | openSession => exact go _ rfl fun ps _ => runOpen_effect _ l ps s
  | closeSession => exact go _ rfl fun _ _ => .closed
  | ping => exact go _ rfl fun _ _ => .unchanged
  | linkFormat => exact go _ rfl fun ps _ => runLinkFormat_effect _ l ps s
  | linkStatus => exact go _ rfl fun _ _ => .causesEmptied
  | list => exact go _ rfl fun ps _ => runList_effect _ l ps s
  | lookup => exact go _ rfl fun ps _ => runLookup_effect _ l ps s
  | find => exact go _ rfl fun ps _ => runFind_effect _ l ps s
  | describe => exact go _ rfl fun ps _ => runDescribe_effect _ l ps s
  | claim => exact go _ rfl fun ps ho => runClaim_effect _ ps (ho.resolve_right (by decide))
  | release => exact go _ rfl fun ps _ => runRelease_effect _ l ps s
  | scanIr => exact go _ rfl fun ps ho => runScanIr_effect _ ps (ho.resolve_right (by decide))
  | scanDr => exact go _ rfl fun ps ho => runScanDr_effect _ ps (ho.resolve_right (by decide))
  | chainReset => exact go _ rfl fun ps ho => runChainReset_effect _ ps (ho.resolve_right (by decide))
  | fetch => exact go _ rfl fun ps _ => runFetch_effect _ l ps s
  | cancel => exact go _ rfl fun ps _ => runCancel_effect _ l ps s
  | rescan => exact go _ rfl fun ps _ => runRescan_effect l ps s
  | chainConfig => exact go _ rfl fun ps _ => runChainConfig_effect _ l ps s
  | profileAdd => exact go _ rfl fun ps _ => runProfileAdd_effect _ l ps s
  | profileDrop => exact go _ rfl fun ps _ => runProfileDrop_effect _ l ps s
  | profileRead => exact go _ rfl fun ps _ => runProfileRead_effect _ l ps s
  | bindEvent => exact go _ rfl fun ps _ => runBindEvent_effect _ l ps s
  | unbindEvent => exact go _ rfl fun ps _ => runUnbindEvent_effect _ l ps s
  | eventStatus => exact go _ rfl fun _ _ => .reported

/-- The command of an unknown code. -/
theorem exec_unknown_cases (s : State) (l : LinkId) :
    ∃ t, exec (.unknownCommand l) s = .next t ∧
      (t = s ∨ (s.live = true ∧ (∃ body, (s.links[l]).slot = .untaken body) ∧
        ∃ w, Handled l s w ∧ t = settle s w)) := by
  refine ⟨_, rfl, ?_⟩
  obtain h | ⟨h1, h2, u, w, h3, h4, h5⟩ := serve_cases s l none fun _ t => t.refuse .badRequest
  · exact .inl h
  · refine .inr ⟨h1, h2, w, ?_, h5⟩
    rcases h3 with rfl | ⟨_, _, hq, _⟩
    · exact h4
    · cases hq

/-- A property of every command, from the request rows together and each other command. -/
theorem instr_cases {P : Instr → Prop} (request : ∀ (q : Request) (l : LinkId), P (q.row l))
    (powerOn : P .powerOn)
    (internalResetEnd : ∀ x b, P (.internalResetEnd x b))
    (resetNAssert : P .resetNAssert)
    (resetNRelease : P .resetNRelease)
    (characterReceived : ∀ l x, P (.characterReceived l x))
    (breakTaken : ∀ l, P (.breakTaken l))
    (gapExpiry : ∀ l, P (.gapExpiry l))
    (replyStart : ∀ l, P (.replyStart l))
    (replyEnd : ∀ l, P (.replyEnd l))
    (noticeStart : ∀ l, P (.noticeStart l))
    (noticeEnd : ∀ l, P (.noticeEnd l))
    (unknownCommand : ∀ l, P (.unknownCommand l))
    (keepaliveExpiry : ∀ l, P (.keepaliveExpiry l))
    (waitLimitExpiry : ∀ j, P (.waitLimitExpiry j))
    (grant : ∀ c, P (.grant c))
    (scanCompletion : ∀ c d, P (.scanCompletion c d))
    (chainResetCompletion : ∀ c, P (.chainResetCompletion c))
    (returnCompletion : ∀ c, P (.returnCompletion c))
    (testResetComplete : ∀ c, P (.testResetComplete c))
    (idRead : ∀ c d, P (.idRead c d))
    (irMeasure : ∀ c d, P (.irMeasure c d))
    (bypassCount : ∀ c d, P (.bypassCount c d))
    (closingAction : ∀ c, P (.closingAction c))
    (eventLineSample : ∀ p, P (.eventLineSample p))
    (lineAtMarking : ∀ l, P (.lineAtMarking l))
    (startBit : ∀ l, P (.startBit l))
    (startBitNoise : ∀ l, P (.startBitNoise l))
    (i : Instr) : P i := by
  cases i with
  | openSession l => exact request .openSession l
  | closeSession l => exact request .closeSession l
  | ping l => exact request .ping l
  | linkFormat l => exact request .linkFormat l
  | linkStatus l => exact request .linkStatus l
  | list l => exact request .list l
  | lookup l => exact request .lookup l
  | find l => exact request .find l
  | describe l => exact request .describe l
  | claim l => exact request .claim l
  | release l => exact request .release l
  | scanIr l => exact request .scanIr l
  | scanDr l => exact request .scanDr l
  | chainReset l => exact request .chainReset l
  | fetch l => exact request .fetch l
  | cancel l => exact request .cancel l
  | rescan l => exact request .rescan l
  | chainConfig l => exact request .chainConfig l
  | profileAdd l => exact request .profileAdd l
  | profileDrop l => exact request .profileDrop l
  | profileRead l => exact request .profileRead l
  | bindEvent l => exact request .bindEvent l
  | unbindEvent l => exact request .unbindEvent l
  | eventStatus l => exact request .eventStatus l
  | powerOn => exact powerOn
  | internalResetEnd x b => exact internalResetEnd x b
  | resetNAssert => exact resetNAssert
  | resetNRelease => exact resetNRelease
  | characterReceived l x => exact characterReceived l x
  | breakTaken l => exact breakTaken l
  | gapExpiry l => exact gapExpiry l
  | replyStart l => exact replyStart l
  | replyEnd l => exact replyEnd l
  | noticeStart l => exact noticeStart l
  | noticeEnd l => exact noticeEnd l
  | unknownCommand l => exact unknownCommand l
  | keepaliveExpiry l => exact keepaliveExpiry l
  | waitLimitExpiry j => exact waitLimitExpiry j
  | grant c => exact grant c
  | scanCompletion c d => exact scanCompletion c d
  | chainResetCompletion c => exact chainResetCompletion c
  | returnCompletion c => exact returnCompletion c
  | testResetComplete c => exact testResetComplete c
  | idRead c d => exact idRead c d
  | irMeasure c d => exact irMeasure c d
  | bypassCount c d => exact bypassCount c d
  | closingAction c => exact closingAction c
  | eventLineSample p => exact eventLineSample p
  | lineAtMarking l => exact lineAtMarking l
  | startBit l => exact startBit l
  | startBitNoise l => exact startBitNoise l

end Sys2Proof.Machine
end

