-- ==== Sys2Proof/WellFormed.lean ====
section
/-! DEFINITION. The commands that can arrive at all: the samples of one character agree with each other, and
a scan returns no more bits than the longest scan of its kind shifts. Links, chains, job slots and lines are
in range by their types. -/

namespace Sys2Proof

/-- Every sample of a break candidate, the middles of its bits among them, read spacing (R166). The converse is not
asked, DESIGN CHOICE (log entry 16): middles that all read spacing may come without the flag, since by one reading of R166
a sample between them may have read marking. Where the format has no parity bit, a candidate's unused `parity` is spacing
too. -/
def CharSamples.wellFormed (x : CharSamples) : Bool :=
  !x.allSpacing || (x.data == 0#8 && !x.parity && !x.stop)

/-- The most bits ID_READ shifts: 16 items of 32 bits and a marker or 17th item (R32). -/
def maxIdBits : Nat := 544

/-- The most bits IR_MEASURE shifts (R33). -/
def maxMeasureBits : Nat := 1025

/-- The most bits BYPASS_COUNT shifts (R34). -/
def maxCountBits : Nat := 17

/-- The most bits a job scan or park shifts: 16 segments of 1024 bits (R107). -/
def maxScanBits : Nat := 16384

/-- The command can arrive at the part. -/
def Instr.wellFormed : Instr → Bool
  | .characterReceived _ x => x.wellFormed
  | .scanCompletion _ tdi => decide (tdi.length ≤ maxScanBits)
  | .idRead _ tdi => decide (tdi.length ≤ maxIdBits)
  | .irMeasure _ tdi => decide (tdi.length ≤ maxMeasureBits)
  | .bypassCount _ tdi => decide (tdi.length ≤ maxCountBits)
  | .powerOn => true
  | .internalResetEnd _ _ => true
  | .resetNAssert => true
  | .resetNRelease => true
  | .breakTaken _ => true
  | .gapExpiry _ => true
  | .replyStart _ => true
  | .replyEnd _ => true
  | .noticeStart _ => true
  | .noticeEnd _ => true
  | .unknownCommand _ => true
  | .openSession _ => true
  | .closeSession _ => true
  | .ping _ => true
  | .linkFormat _ => true
  | .linkStatus _ => true
  | .list _ => true
  | .lookup _ => true
  | .find _ => true
  | .describe _ => true
  | .claim _ => true
  | .release _ => true
  | .scanIr _ => true
  | .scanDr _ => true
  | .chainReset _ => true
  | .fetch _ => true
  | .cancel _ => true
  | .rescan _ => true
  | .chainConfig _ => true
  | .profileAdd _ => true
  | .profileDrop _ => true
  | .profileRead _ => true
  | .bindEvent _ => true
  | .unbindEvent _ => true
  | .eventStatus _ => true
  | .keepaliveExpiry _ => true
  | .waitLimitExpiry _ => true
  | .grant _ => true
  | .chainResetCompletion _ => true
  | .returnCompletion _ => true
  | .testResetComplete _ => true
  | .closingAction _ => true
  | .eventLineSample _ => true
  | .lineAtMarking _ => true
  | .startBit _ => true
  | .startBitNoise _ => true

end Sys2Proof
end

