-- ==== Sys2Proof/Tests/Slice0.lean ====
section
/-! SUPPORT. Tests of the model: a smoke test of each WellFormed check, tests of the commands by the spec's own
examples, and for each obligation with hypotheses a state and operands that meet them. The board is that of the
spec's worked sequences, after the descriptions of 3.7. -/

namespace Sys2Proof.Tests

set_option Elab.async false

open Sys2Proof Sys2Proof.Machine

/-! ### The board -/

/-- The bits 1 0000000 1 0000 1 000 that the worked board's instruction registers capture (2.9). -/
def captureBits : List Bool :=
  (true :: List.replicate 7 false) ++ (true :: List.replicate 4 false) ++ (true :: List.replicate 3 false)

/-- A session with this tag, push flag and watch set, period 20 and nothing else (7.1). -/
def aSession (tag : List Byte) (push : Bool) (watch : BitVec 4) : Session :=
  ⟨tag, 20, some 0, push, watch, 0#4, none⟩

/-- Record 0022h of 4.9: owned by session 1, resident index 1 (HELD). -/
def rec22 : TargetRecord where
  chain := 1
  position := 0
  state := .claimed 1
  identity := some 0x1A3B6045#32
  shape := .known 4 .profile
  entries := #v[some ⟨0x0C#32, 16, .held⟩, none, none, none, none, none, none]
  resident := .index 1

/-- Record 0023h of 4.9: AVAILABLE, no identity code, resident index 0. -/
def rec23 : TargetRecord where
  chain := 1
  position := 1
  state := .available
  identity := none
  shape := .known 5 .deduced
  entries := Vector.replicate 7 none
  resident := .index 0

/-- Record 0024h of 4.9: owned by session 0, resident index 0. -/
def rec24 : TargetRecord where
  chain := 1
  position := 2
  state := .claimed 0
  identity := some 0x0E2D1033#32
  shape := .known 8 .host
  entries := #v[some ⟨2#32, 32, .inert⟩, some ⟨3#32, 8, .held⟩, none, none, none, none, none]
  resident := .index 0

/-- Chain C1 of the worked board. -/
def chainOne : Chain :=
  { Chain.powerOn .ready with targetCount := 3, totalIr := 17, capture := captureBits }

/-- The worked board: C0 RESETTING, C1 READY with its three records, C2 in FAULT, C3 DISABLED; sessions 0 and 1 OPEN,
0 watching C1. -/
def board : State :=
  { State.reset with
    power := .operating
    tickRunning := true
    straps := ⟨0#2, 7#4⟩
    sessions := #v[some (aSession [0x57#8, 0x53#8, 0x30#8] true 2#4), some (aSession [0x42#8] true 0#4), none, none]
    slots := ((State.reset.slots.set 2 ⟨1, some rec22⟩).set 3 ⟨1, some rec23⟩).set 4 ⟨1, some rec24⟩
    chains := #v[Chain.powerOn (.resetting .enumerate), chainOne, Chain.powerOn (.fault .tooMany),
      Chain.powerOn .disabled] }

/-- The state with one link's HLU changed. -/
def linked (s : State) (l : LinkId) (f : Hlu → Hlu) : State :=
  s.withLink l (f s.links[l])

/-- The state with a request body untaken in a link's slot. -/
def asking (s : State) (l : LinkId) (body : List Byte) : State :=
  linked s l fun x => { x with slot := .untaken body }

/-- The state with one chain in a phase. -/
def phased (s : State) (c : ChainId) (p : ChainPhase) : State :=
  { s with chains := s.chains.set c { s.chains[c] with phase := p } }

/-- The state with a record in a slot, at the slot's generation. -/
def recorded (s : State) (i : SlotId) (r : TargetRecord) : State :=
  { s with slots := s.slots.set i ⟨(s.slots[i]).generation, some r⟩ }

/-- The state with a job in a slot and at the end of its chain's queue. -/
def jobbed (s : State) (j : JobId) (x : Job) : State :=
  { s with
    jobs := s.jobs.set j ⟨(s.jobs[j]).generation, some x⟩
    chains := s.chains.set x.chain { s.chains[x.chain] with queue := (s.chains[x.chain]).queue ++ [j] } }

/-- The state with one session's fields. -/
def sessioned (s : State) (l : SessionId) (x : Option Session) : State :=
  { s with sessions := s.sessions.set l x }

/-- A QUEUED job of a session on C1, wait limit 0, idle count 0. -/
def aJob (l : SessionId) (kind : JobKind) : Job :=
  ⟨some l, kind, 1, 0, 0, .queued none⟩

/-- The state that a command answers; the state itself where it answers none. -/
def next (i : Instr) (s : State) : State :=
  match exec i s with
  | .next t => t
  | _ => s

/-- The state after some commands. -/
def runs (s : State) (is : List Instr) : State :=
  is.foldl (fun t i => next i t) s

/-- The body of the reply to a request that stands in the link's slot. -/
def reply (s : State) (l : LinkId) (body : List Byte) : Option (List Byte) :=
  ((next (rowOf (body.headD 0#8) l) (asking s l body)).links[l]).waiting

/-- The state after a request whose reply has been sent. -/
def after (s : State) (l : LinkId) (body : List Byte) : State :=
  runs (asking s l body) [rowOf (body.headD 0#8) l, .replyStart l, .replyEnd l]

/-- The bits of a 32-bit code, bit 0 first. -/
def bits32 (w : Word32) : List Bool :=
  (List.range 32).map w.getLsbD

/-! ### WellFormed: each check refuses an ill-formed command -/

theorem test_wf_character : (Instr.characterReceived 0 ⟨1#8, false, false, true⟩).wellFormed = false := by decide

theorem test_wf_character_break : (Instr.characterReceived 0 ⟨0#8, false, false, true⟩).wellFormed = true := by
  decide

theorem test_wf_scan : (Instr.scanCompletion 0 (List.replicate 16385 false)).wellFormed = false := by
  decide +kernel

theorem test_wf_id_read : (Instr.idRead 0 (List.replicate 545 false)).wellFormed = false := by
  decide +kernel

theorem test_wf_ir_measure : (Instr.irMeasure 0 (List.replicate 1026 false)).wellFormed = false := by
  decide +kernel

theorem test_wf_bypass_count : (Instr.bypassCount 0 (List.replicate 18 false)).wellFormed = false := by
  decide +kernel

/-! ### Frames (R181, 9.10 step 7, 10.7) -/

/-- The check value of R181. -/
theorem test_crc_check_value :
    crc16 [0x31#8, 0x32#8, 0x33#8, 0x34#8, 0x35#8, 0x36#8, 0x37#8, 0x38#8, 0x39#8] = 0x29B1#16 := by
  decide +kernel

/-- The PING frame of 9.10 step 7, D5h, 02h, 03h, 40h, with the check that R181 gives its length byte and body (9.10 prints
DFh for its high byte: log entry 14). -/
theorem test_ping_frame_arrives :
    (board.after (.lineAtMarking 0 ::
        arrivals 0 ⟨120, .none, .one⟩ [0xD5#8, 0x02#8, 0x03#8, 0x40#8, 0xBF#8, 0x6B#8])).map
      (fun t => (t.links[(0 : LinkId)]).slot) = some (.untaken [0x03#8, 0x40#8]) := by
  decide +kernel

/-- PING is answered with part code 0420h, revision, link and the states of chains and sessions (R136). -/
theorem test_ping :
    reply board 0 [0x03#8, 0x40#8] =
      some ([0x83#8, 0x40#8, 0x00#8, 0x00#8, 0x04#8, 0x20#8, 0x01#8, 0x00#8] ++
        [1#8, 3#8, 5#8, 0#8] ++
        [1#8, 3#8, 0x57#8, 0x53#8, 0x30#8, 1#8, 1#8, 0x42#8, 0#8, 0#8, 0#8, 0#8]) := by
  decide +kernel

/-- A frame whose check disagrees latches CHECK (R170). -/
theorem test_character_received_bad_check :
    (board.after (.lineAtMarking 0 ::
        arrivals 0 ⟨120, .none, .one⟩ [0xD5#8, 0x02#8, 0x03#8, 0x40#8, 0xBF#8, 0x6A#8])).map
      (fun t => (t.links[(0 : LinkId)]).causes) = some 0x10#7 := by
  decide +kernel

/-- Noise at a start edge takes the receiver back to START_WAIT (R166). -/
theorem test_start_bit_noise :
    ((runs board [.lineAtMarking 0, .startBit 0, .startBitNoise 0]).links[(0 : LinkId)]).receiver = .startWait := by
  decide +kernel

/-- A break returns the link to its base format and latches BREAK, and the link of an OPEN session with push on queues a
NOTICE (9.10 step 7). -/
theorem test_break :
    let t := runs (linked board 0 fun x => { x with format := ⟨10, .even, .one⟩ })
      [.lineAtMarking 0, .startBit 0, .breakTaken 0]
    (t.links[(0 : LinkId)]).format = ⟨120, .none, .one⟩ ∧ (t.links[(0 : LinkId)]).causes = 0x40#7 ∧
      (t.links[(0 : LinkId)]).queuedNotice = true := by
  decide +kernel

/-- The gap limit within a frame latches GAP (R171). -/
theorem test_gap_expiry :
    let t := runs board (.lineAtMarking 0 :: arrivals 0 ⟨120, .none, .one⟩ [0xD5#8, 0x02#8] ++ [.gapExpiry 0])
    (t.links[(0 : LinkId)]).causes = 0x20#7 ∧ (t.links[(0 : LinkId)]).assembler = .hunt := by
  decide +kernel

/-- A candidate start bit during which the gap limit ends: noise latches GAP, a character goes on with the frame
(R171). -/
theorem test_gap_limit_during_candidate :
    let s := runs board (.lineAtMarking 0 :: arrivals 0 ⟨120, .none, .one⟩ [0xD5#8, 0x02#8] ++
      [.startBit 0, .gapExpiry 0])
    (s.links[(0 : LinkId)]).causes = 0#7 ∧
      ((next (.startBitNoise 0) s).links[(0 : LinkId)]).causes = 0x20#7 ∧
      ((next (.startBitNoise 0) s).links[(0 : LinkId)]).assembler = .hunt ∧
      ((next (.characterReceived 0 (goodSamples ⟨120, .none, .one⟩ 3#8)) s).links[(0 : LinkId)]).assembler =
        .body 2#8 [3#8] := by
  decide +kernel

/-- A NOTICE with JOB_DONE pending is the frame of R185. -/
theorem test_notice_start :
    let s := linked (jobbed board 0 { aJob 0 .chainReset with status := .done .ok [] }) 0
      fun x => { x with queuedNotice := true }
    ((next (.noticeStart 0) s).links[(0 : LinkId)]).tx = .notice (sentFrame [0xF0#8, 0x02#8]) ⟨120, .none, .one⟩ ∧
      ((runs s [.noticeStart 0, .noticeEnd 0]).links[(0 : LinkId)]).tx = .idle := by
  decide +kernel

/-! ### Requests -/

theorem test_unknown_command : reply board 0 [0x77#8, 1#8, 5#8] = some [0xFF#8, 1#8, 2#8, 0#8] := by
  decide +kernel

/-- OPEN on the CLOSED session 2 answers its number, and a second OPEN ALREADY_OPEN (R133, R134). -/
theorem test_open :
    reply board 2 [1#8, 1#8, 1#8, 0x41#8, 0#8, 1#8, 3#8] = some [0x81#8, 1#8, 0#8, 0#8, 2#8] ∧
      (after board 2 [1#8, 1#8, 1#8, 0x41#8, 0#8, 1#8, 3#8]).sessions[(2 : SessionId)] =
        some ⟨[0x41#8], 0, none, true, 3#4, 0#4, some ⟨1#8, [0x81#8, 1#8, 0#8, 0#8, 2#8], none⟩⟩ := by
  decide +kernel

/-- CLOSE of session 1 ends its claim of 0022h, whose HELD resident makes it RELEASING with a park (R142, R61). -/
theorem test_close :
    let t := after board 1 [2#8, 1#8]
    t.sessions[(1 : SessionId)] = none ∧ (t.chains[(1 : ChainId)]).parks = [0x22] ∧
      (t.slots[(2 : SlotId)]).record = some { rec22 with state := .releasing } := by
  decide +kernel

/-- LINK-FORMAT of divisor 10, EVEN, 1 stop bit: in force from its reply's end (9.10 steps 5 and 6). -/
theorem test_link_format :
    ((after board 0 [4#8, 63#8, 0#8, 10#8, 1#8, 1#8]).links[(0 : LinkId)]).format = ⟨10, .even, .one⟩ := by
  decide +kernel

/-- LINK-STATUS reports CHECK, the base format and base divisor 120 (9.10 step 4). -/
theorem test_link_status :
    reply (linked board 0 fun x => { x with causes := 0x10#7 }) 0 [5#8, 62#8] =
      some [0x85#8, 62#8, 0#8, 0#8, 0x10#8, 0#8, 120#8, 0#8, 1#8, 0#8, 120#8] := by
  decide +kernel

/-- LIST of C1 of the worked board: READY, no conflict, total 17, three records. -/
theorem test_list :
    reply board 0 [0x10#8, 3#8, 1#8] =
      some ([0x90#8, 3#8, 0#8, 0#8] ++
        [3#8, 0#8, 0#8, 0#8, 17#8, 3#8] ++
        [0#8, 0x22#8, 2#8, 1#8, 3#8] ++ [0#8, 0x23#8, 1#8, 0xFF#8, 1#8] ++ [0#8, 0x24#8, 2#8, 0#8, 3#8]) := by
  decide +kernel

theorem test_lookup_bad_handle : reply board 0 [0x11#8, 3#8, 0#8, 0x25#8] = some [0x91#8, 3#8, 5#8, 0#8] := by
  decide +kernel

/-- FIND of 0E2D1033h under a full mask finds 0024h (R23). -/
theorem test_find :
    reply board 1 [0x12#8, 3#8, 0x0E#8, 0x2D#8, 0x10#8, 0x33#8, 0xFF#8, 0xFF#8, 0xFF#8, 0xFF#8] =
      some [0x92#8, 3#8, 0#8, 0#8, 1#8, 0#8, 0x24#8] := by
  decide +kernel

/-- C1 of 3.7, before the descriptions of 0023h and 0024h. -/
def undescribed : State :=
  recorded (recorded board 3 { rec23 with shape := .unknown }) 4
    { rec24 with shape := .unknown, entries := Vector.replicate 7 none }

/-- 3.7: the lengths 14, 12 and 9 are refused, and 8 leaves 5 for 0023h. -/
theorem test_describe_lengths :
    (∀ n ∈ [14, 12, 9], undescribed.lengthPlan 4 { rec24 with shape := .unknown } n = none) ∧
      undescribed.lengthPlan 4 { rec24 with shape := .unknown } 8 = some ⟨some 8, some (3, 5)⟩ := by
  decide +kernel

/-- 3.7: an edit with a code of all ones is answered BAD_ENTRY. -/
theorem test_describe_all_ones :
    reply board 0 ([0x13#8, 6#8, 0#8, 0x24#8, 0#8, 1#8] ++ [2#8, 1#8, 0#8, 0#8, 0#8, 0xFF#8, 0#8, 8#8, 1#8]) =
      some [0x93#8, 6#8, 0x0C#8, 0#8] := by
  decide +kernel

theorem test_claim :
    ((after board 0 [0x14#8, 5#8, 0#8, 0x23#8]).slots[(3 : SlotId)]).record =
      some { rec23 with state := .claimed 0 } := by
  decide +kernel

theorem test_release :
    ((after board 0 [0x15#8, 5#8, 0#8, 0x24#8]).slots[(4 : SlotId)]).record =
      some { rec24 with state := .available } := by
  decide +kernel

/-- 4.9 steps 1 and 2: tickets 10h and 11h. -/
theorem test_scan_dr_scan_ir :
    reply board 0 [0x21#8, 1#8, 0#8, 0x24#8, 0#8, 1#8, 0#8, 0#8, 0#8, 0#8, 1#8] =
        some [0xA1#8, 1#8, 1#8, 0#8, 0x10#8] ∧
      reply (after board 0 [0x21#8, 1#8, 0#8, 0x24#8, 0#8, 1#8, 0#8, 0#8, 0#8, 0#8, 1#8]) 0
        [0x20#8, 2#8, 0#8, 0x24#8, 1#8, 0#8, 0#8, 0#8, 0#8] = some [0xA0#8, 2#8, 1#8, 0#8, 0x11#8] := by
  decide +kernel

/-- The three jobs of 4.9 step 3, before the grant. -/
def queued : State :=
  jobbed (jobbed (jobbed board 0 (aJob 0 (.dr 0x24 [true]))) 1 (aJob 0 (.ir 0x24 1))) 2
    (aJob 1 (.dr 0x22 (List.replicate 16 false)))

/-- 4.9 step 3: the third job overtakes the two older ones. -/
theorem test_grant_overtakes :
    ((next (.grant 1) queued).chains[(1 : ChainId)]).queue = [2, 0, 1] ∧
      ((next (.grant 1) queued).jobs[(2 : JobId)]).job =
        some { aJob 1 (.dr 0x22 (List.replicate 16 false)) with status := .running } := by
  decide +kernel

theorem test_chain_reset_blocked :
    reply board 0 [0x22#8, 1#8, 1#8, 0#8, 0#8, 0#8, 0#8] =
      some [0xA2#8, 1#8, 0x12#8, 0#8] := by
  decide +kernel

/-- 10.7: FETCH of the 16-bit scan reports 8001h as 01h, 80h. -/
theorem test_fetch :
    reply (jobbed board 2 { (aJob 1 (.dr 0x22 (List.replicate 16 false))) with
        status := .done .ok (true :: (List.replicate 14 false ++ [true])) }) 1 [0x23#8, 0x2B#8, 0x12#8] =
      some [0xA3#8, 0x2B#8, 0#8, 0#8, 1#8, 1#8, 0#8, 0x22#8, 0#8, 0#8, 0x10#8, 0x01#8, 0x80#8] := by
  decide +kernel

/-- 4.9 step 5: CANCEL frees the slot, whose generation becomes 2. -/
theorem test_cancel :
    (after queued 0 [0x24#8, 9#8, 0x10#8]).jobs[(0 : JobId)] = ⟨2, none⟩ ∧
      ((after queued 0 [0x24#8, 9#8, 0x10#8]).chains[(1 : ChainId)]).queue = [1, 2] := by
  decide +kernel

/-- RESCAN of a chain in FAULT (2.9). -/
theorem test_rescan :
    ((after board 0 [0x30#8, 3#8, 2#8]).chains[(2 : ChainId)]).phase = .resetting .enumerate := by
  decide +kernel

theorem test_chain_config_busy :
    reply board 0 [0x31#8, 3#8, 1#8, 16#8, 0#8] = some [0xB1#8, 3#8, 0x12#8, 0#8] := by
  decide +kernel

/-- The profile of 2.9. -/
def profile : Profile :=
  ⟨0x0A3B6045#32, 0x0FFFFFFF#32, 4, [⟨0x0C#32, 16, .held⟩]⟩

/-- 2.9: the entry is added at index 0. -/
theorem test_profile_add :
    (after board 0 [0x40#8, 2#8, 0x0A#8, 0x3B#8, 0x60#8, 0x45#8, 0x0F#8, 0xFF#8, 0xFF#8, 0xFF#8, 4#8, 1#8, 0#8, 0#8,
      0#8, 0x0C#8, 0#8, 16#8, 1#8]).profiles = [profile] := by
  decide +kernel

theorem test_profile_drop :
    (after { board with profiles := [profile] } 0 [0x41#8, 2#8, 0#8]).profiles = [] := by
  decide +kernel

theorem test_profile_read_beyond :
    reply { board with profiles := [profile] } 0 [0x42#8, 2#8, 1#8] = some [0xC2#8, 2#8, 0#8, 0#8, 1#8] := by
  decide +kernel

/-- 8.7: E2 bound to 0022h, ASSERT_LOW, ASSERT_ONLY. -/
theorem test_bind_event :
    (after board 1 [0x50#8, 2#8, 0#8, 0x22#8, 2#8, 1#8, 0#8]).lines[(2 : LineId)] =
      ⟨.unsettled, none, some 0x22, .assertLow, .assertOnly, false⟩ := by
  decide +kernel

/-- The worked board with E2 bound as in 8.7 and taken HIGH. -/
def filtered : State :=
  { board with lines := board.lines.set 2 ⟨.high, none, some 0x22, .assertLow, .assertOnly, false⟩ }

/-- 8.7: after ticks 1 to 4 and after tick 7 (LOW, HIGH, LOW, LOW, LOW, HIGH, HIGH). -/
theorem test_event_line_sample :
    (runs filtered [.eventLineSample 0#8, .eventLineSample 4#8, .eventLineSample 0#8]).lines[(2 : LineId)] =
        ⟨.high, some false, some 0x22, .assertLow, .assertOnly, false⟩ ∧
      (runs filtered [.eventLineSample 0#8, .eventLineSample 4#8, .eventLineSample 0#8, .eventLineSample 0#8,
          .eventLineSample 0#8, .eventLineSample 4#8, .eventLineSample 4#8]).lines[(2 : LineId)] =
        ⟨.high, none, some 0x22, .assertLow, .assertOnly, true⟩ := by
  decide +kernel

/-- 8.7: the EVENT-STATUS after tick 7. -/
theorem test_event_status :
    reply { board with lines := board.lines.set 2 ⟨.high, none, some 0x22, .assertLow, .assertOnly, true⟩ } 1
        [0x52#8, 7#8] =
      some [0xD2#8, 7#8, 0#8, 0#8, 1#8, 2#8, 0#8, 0x22#8, 1#8, 0#8, 0#8, 1#8] := by
  decide +kernel

theorem test_unbind_event :
    (after filtered 1 [0x51#8, 2#8, 0#8, 0x22#8]).lines[(2 : LineId)] =
      ⟨.high, none, none, .assertHigh, .assertOnly, false⟩ := by
  decide +kernel

/-! ### Timers -/

/-- 20 s after its last request session 0 ends (R140). -/
theorem test_keepalive_expiry :
    (next (.keepaliveExpiry 0) (sessioned board 0
      (some { aSession [0x57#8] true 2#4 with timer := some 20000 }))).sessions[(0 : SessionId)] = none := by
  decide +kernel

theorem test_wait_limit_expiry :
    ((next (.waitLimitExpiry 0) (jobbed board 0 { aJob 0 (.ir 0x24 1) with
        waitLimit := 500, status := .queued (some 500) })).jobs[(0 : JobId)]).job =
      some { aJob 0 (.ir 0x24 1) with waitLimit := 500, status := .done .timeout [] } := by
  decide +kernel

/-- One tick counts a keepalive timer and a wait timer and samples the lines (R187). -/
theorem test_tick :
    let t := next (.eventLineSample 4#8) (jobbed board 0 { aJob 0 (.ir 0x24 1) with
      waitLimit := 500, status := .queued (some 499) })
    (t.sessions[(0 : SessionId)]).map Session.timer = some (some 1) ∧
      ((t.jobs[(0 : JobId)]).job.map Job.status) = some (.queued (some 500)) ∧
      (t.lines[(2 : LineId)]).candidate = some true ∧ (t.lines[(1 : LineId)]).candidate = some false := by
  decide +kernel

/-! ### Enumeration of C1 (2.9) -/

/-- The part with C1 in its test reset, C0's two targets in S0 and S1, and the profile of 2.9. -/
def unscanned : State :=
  { board with
    profiles := [profile]
    slots := (State.reset.slots.set 0 ⟨1, some { rec23 with chain := 0, position := 0 }⟩).set 1
      ⟨1, some { rec23 with chain := 0, position := 1 }⟩
    chains := (board.chains.set 1 (Chain.powerOn (.resetting .enumerate))).set 0 (Chain.powerOn .ready) }

/-- The events of C1's enumeration, up to its closing action. -/
def enumeration : List Instr :=
  [.testResetComplete 1,
    .idRead 1 (bits32 0x0E2D1033#32 ++ [false] ++ bits32 0x1A3B6045#32 ++ List.replicate 32 true),
    .irMeasure 1 (captureBits ++ List.replicate 512 false ++ [true]),
    .bypassCount 1 [false, false, false, true]]

/-- 2.9: three codes, total 17 and the capture pattern. -/
theorem test_enumeration_steps :
    ((runs unscanned enumeration).chains[(1 : ChainId)]).phase =
      .enumerating (.closing [some 0x1A3B6045#32, none, some 0x0E2D1033#32] 17 captureBits) := by
  decide +kernel

/-- 2.9: position 0 takes S2 with the profile's length and entry, and positions 1 and 2 take S3 and S4 without length. -/
theorem test_closing_action :
    let t := next (.closingAction 1) (runs unscanned enumeration)
    (t.chains[(1 : ChainId)]).phase = .ready ∧ (t.chains[(1 : ChainId)]).totalIr = 17 ∧
      (t.slots[(2 : SlotId)]).record =
        some { rec22 with state := .available, resident := .index 0 } ∧
      (t.slots[(3 : SlotId)]).record = some { rec23 with shape := .unknown } ∧
      (t.slots[(4 : SlotId)]).record =
        some { rec24 with state := .available, shape := .unknown, entries := Vector.replicate 7 none } := by
  decide +kernel

/-- 2.9: TDI_IN at 0 throughout raises TOO_MANY at the 17th item (R32). -/
theorem test_id_read_too_many :
    ((runs unscanned [.testResetComplete 1, .idRead 1 (List.replicate 17 false)]).chains[(1 : ChainId)]).phase =
      .fault .tooMany := by
  decide +kernel

/-- R32 to R34: a TDI_IN at 0 ends ID_READ after 17 bits and one at 1 after 32; 2.9's total of 17 takes 530 shifts and
an IR_OVERFLOW 1025; a count of three stops at index 3. -/
theorem test_enumeration_shifts :
    EnumStep.idRead.shifts (List.replicate 40 false) = some 17 ∧
      EnumStep.idRead.shifts (List.replicate 40 true) = some 32 ∧
      (EnumStep.irMeasure []).shifts (captureBits ++ List.replicate 512 false ++ [true, true]) = some 530 ∧
      (EnumStep.irMeasure []).shifts (List.replicate 1030 false) = some 1025 ∧
      (EnumStep.bypassCount [none, none, none] 6 []).shifts [false, false, false, true, true] = some 4 ∧
      (EnumStep.bypassCount [none, none, none] 6 []).shifts (List.replicate 6 false) = some 4 := by
  decide +kernel

/-- An ID_READ of C1 clocks ENTRY, 17 shifts with TMS 1 on the last, and EXIT (R32, R103). -/
theorem test_id_read_periods :
    ((next (.testResetComplete 1) unscanned).portPeriods 1 (List.replicate 40 false)).map PortPeriod.tms =
      [true, false, false] ++ List.replicate 16 false ++ [true] ++ [true, false] := by
  decide +kernel

/-! ### Scans of C1 (5.10) -/

/-- The worked board after a CHAIN-RESET, with session 1's SCAN-IR of 0022h, entry 1, in J0. -/
def afterChainReset : State :=
  jobbed (recorded (recorded (recorded board 2 { rec22 with resident := .resetDefault }) 3
    { rec23 with resident := .resetDefault }) 4 { rec24 with resident := .resetDefault }) 0 (aJob 1 (.ir 0x22 1))

/-- The scan in progress on C1. -/
def scanOf (s : State) : Option Scan :=
  match (s.chains[(1 : ChainId)]).phase with
  | .scanning x => some x
  | _ => none

/-- 5.10.1: the bits 0 to 12 are 1, 13 and 14 are 0, 15 and 16 are 1, in 23 TCK periods. -/
theorem test_instruction_scan :
    (scanOf (next (.grant 1) afterChainReset)).map (fun x => (x.outBits, (x.periods true).length)) =
      some (List.replicate 13 true ++ [false, false, true, true], 23) := by
  decide +kernel

/-- 5.10.1: 0022h holds index 1, the others index 0, and the captured data is 1, 0, 0, 0. -/
theorem test_scan_completion :
    let t := runs afterChainReset [.grant 1, .scanCompletion 1 captureBits]
    (t.slots[(2 : SlotId)]).record = some rec22 ∧ (t.slots[(3 : SlotId)]).record = some rec23 ∧
      ((t.jobs[(0 : JobId)]).job.map Job.status) = some (.done .ok [true, false, false, false]) ∧
      (t.chains[(1 : ChainId)]).phase = .ready := by
  decide +kernel

/-- 5.10.2: 18 bits in 33 periods, and 8001h captured. -/
theorem test_data_scan :
    let s := jobbed board 0 { aJob 1 (.dr 0x22 ((List.range 16).map (0xA55A#16).getLsbD)) with idle := 10 }
    (scanOf (next (.grant 1) s)).map (fun x => (x.total, (x.periods true).length)) = some (18, 33) ∧
      (((runs s [.grant 1, .scanCompletion 1
          ([false, false] ++ true :: (List.replicate 14 false ++ [true]))]).jobs[(0 : JobId)]).job.map Job.status) =
        some (.done .ok (true :: (List.replicate 14 false ++ [true]))) := by
  decide +kernel

/-- 5.10.3: position 2 returns 1E2D1033h, so C1 enters FAULT with cause CHECK. -/
theorem test_scan_fault :
    let s := jobbed (recorded (recorded (recorded board 2 { rec22 with resident := .resetDefault }) 3
      { rec23 with resident := .resetDefault, state := .claimed 0 }) 4 { rec24 with resident := .resetDefault }) 0
      (aJob 0 (.dr 0x23 [true]))
    let t := runs s [.grant 1, .scanCompletion 1 (bits32 0x1E2D1033#32 ++ [true] ++ bits32 0x1A3B6045#32)]
    (t.chains[(1 : ChainId)]).phase = .fault .check ∧
      (t.slots[(3 : SlotId)]).record = some { rec23 with resident := .unknown, state := .suspect (some 0) } ∧
      ((t.jobs[(0 : JobId)]).job.map Job.status) = some (.done .chainFault []) := by
  decide +kernel

/-- A chain reset's completion leaves RESET_DEFAULT (R124), and a return's does (R128). -/
theorem test_reset_completions :
    let s := jobbed (recorded board 4 { rec24 with state := .available }) 0 (aJob 1 .chainReset)
    ((runs s [.grant 1, .chainResetCompletion 1]).slots[(2 : SlotId)]).record =
        some { rec22 with resident := .resetDefault } ∧
      ((runs s [.grant 1, .resetNAssert, .resetNRelease, .returnCompletion 1]).slots[(2 : SlotId)]).record =
        some { rec22 with resident := .resetDefault, state := .available } := by
  decide +kernel

/-! ### Power-on and RESET_N -/

/-- BAUDSEL 10 gives divisor 10; C0 and C1 enabled (R165, R186). -/
theorem test_internal_reset_end :
    let t := runs board [.powerOn, .internalResetEnd ⟨2#2, 3#4⟩ true]
    (t.links[(3 : LinkId)]).format.divisor = 10 ∧ (t.chains[(1 : ChainId)]).phase = .resetting .enumerate ∧
      (t.chains[(2 : ChainId)]).phase = .disabled ∧ t.sessions[(0 : SessionId)] = none := by
  decide +kernel

/-- A warm reset makes 0022h RELEASING with a park and 0024h AVAILABLE (R67). -/
theorem test_reset_n :
    let t := runs board [.resetNAssert, .resetNRelease]
    (t.slots[(2 : SlotId)]).record = some { rec22 with state := .releasing } ∧
      (t.slots[(4 : SlotId)]).record = some { rec24 with state := .available } ∧
      (t.chains[(1 : ChainId)]).parks = [0x22] ∧ t.live = true := by
  decide +kernel

/-! ### Witnesses: states and operands that meet each obligation's hypotheses

Each is named after its obligation; where the obligation has clauses, one part for each. -/

theorem witness_StepRunsFrontCommand :
    ({ board with pending := [.ping 0, .grant 1] } : State).pending = .ping 0 :: [.grant 1] ∧ board.pending = [] := by
  decide +kernel

/-- Session 0 with a stored reply to sequence number 5. -/
def replayed : State :=
  sessioned board 0 (some { aSession [0x57#8] true 2#4 with stored := some ⟨5#8, [0x83#8, 5#8, 0#8, 0#8], none⟩ })

theorem witness_RetryIsAnsweredFromStore :
    let s := asking replayed 0 [0x14#8, 5#8]
    s.live = true ∧ (s.links[(0 : LinkId)]).slot = .untaken (0x14#8 :: 5#8 :: []) ∧
      (s.sessions[(0 : SessionId)]).bind Session.stored = some ⟨5#8, [0x83#8, 5#8, 0#8, 0#8], none⟩ := by
  decide +kernel

/-- The 24 requests. -/
def allRequests : List Request :=
  [.openSession, .closeSession, .ping, .linkFormat, .linkStatus, .list, .lookup, .find, .describe, .claim, .release,
    .scanIr, .scanDr, .chainReset, .fetch, .cancel, .rescan, .chainConfig, .profileAdd, .profileDrop, .profileRead,
    .bindEvent, .unbindEvent, .eventStatus]

theorem witness_WrongLengthIsBadRequest :
    ∀ r ∈ allRequests, (asking board 0 (r.code :: 7#8 :: List.replicate 6 0#8)).asked 0 r.code 7#8
      (List.replicate 6 0#8) ∧ r.fits (List.replicate 6 0#8) = false := by
  decide +kernel

/-- The requests that need a session, with zeros of a length that fits. -/
def sessionRequests : List (Request × Nat) :=
  [(.closeSession, 0), (.list, 1), (.lookup, 2), (.find, 8), (.describe, 4), (.claim, 2), (.release, 2), (.scanIr, 7),
    (.scanDr, 8), (.chainReset, 5), (.fetch, 1), (.cancel, 1), (.rescan, 1), (.chainConfig, 3), (.profileAdd, 10),
    (.profileDrop, 1), (.profileRead, 1), (.bindEvent, 5), (.unbindEvent, 2), (.eventStatus, 0)]

theorem witness_ClosedSessionAnswersNoSession :
    ∀ x ∈ sessionRequests, x.1 ≠ .openSession ∧ x.1 ≠ .ping ∧ x.1 ≠ .linkFormat ∧ x.1 ≠ .linkStatus ∧
      (asking board 2 (x.1.code :: 7#8 :: List.replicate x.2 0#8)).asked 2 x.1.code 7#8 (List.replicate x.2 0#8) ∧
      x.1.fits (List.replicate x.2 0#8) = true ∧
      (asking board 2 (x.1.code :: 7#8 :: List.replicate x.2 0#8)).sessions[(2 : SessionId)] = none := by
  decide +kernel

theorem witness_UnknownCommandIsBadRequest :
    ∀ code ∈ [0#8, 6#8, 0x0F#8, 0x16#8, 0x53#8, 0xFF#8], (∀ r : Request, r.code ≠ code) ∧
      (asking board 0 [code, 1#8]).asked 0 code 1#8 [] := by
  intro code hc
  refine ⟨fun r => ?_, ?_⟩
  · cases r <;> (revert code; decide)
  · revert code
    decide +kernel

/-- An OPEN with a tag of the given length. -/
def openParams (n : Nat) (push watch : Byte) : List Byte :=
  BitVec.ofNat 8 (List.replicate n 0x41#8).length :: (List.replicate n 0x41#8 ++ [0#8, push, watch])

/-- What `asking` puts into the slot is asked, on a live part whose stored sequence number is another. -/
theorem asking_asked {s : State} {l : LinkId} {code seq : Byte} {ps : List Byte} (hl : s.live = true)
    (hq : s.storedSeq l ≠ some seq) : (asking s l (code :: seq :: ps)).asked l code seq ps :=
  ⟨hl, by simp [asking, linked, State.withLink], hq⟩

theorem witness_OpenOpensSession :
    (∀ x ∈ [(2#8, 0#8), (0#8, 16#8), (1#8, 15#8)],
      (asking board 0 (1#8 :: 7#8 :: openParams 1 x.1 x.2)).asked 0 1#8 7#8 (openParams 1 x.1 x.2)) ∧
      (asking board 2 (1#8 :: 7#8 :: openParams 16 1#8 15#8)).asked 2 1#8 7#8 (openParams 16 1#8 15#8) ∧
      board.isOpen 0 ∧ board.sessions[(2 : SessionId)] = none :=
  ⟨fun _ _ => asking_asked (by decide +kernel) (by decide +kernel),
    asking_asked (by decide +kernel) (by decide +kernel), by decide +kernel, by decide +kernel⟩

theorem witness_PingReports : (asking board 0 [3#8, 7#8]).asked 0 3#8 7#8 [] := by decide +kernel

theorem witness_LinkFormatBecomesPending :
    (∀ ps ∈ [[0#8, 1#8, 0#8, 1#8], [0xFF#8, 0xFF#8, 2#8, 2#8], [0#8, 0#8, 0#8, 1#8], [0#8, 1#8, 3#8, 1#8],
        [0#8, 1#8, 0#8, 0#8], [0#8, 1#8, 0#8, 3#8]],
      (asking board 0 (4#8 :: 7#8 :: ps)).asked 0 4#8 7#8 ps) ∧
      Parity.none.byte = 0#8 ∧ Parity.odd.byte = 2#8 ∧ StopBits.one.byte = 1#8 ∧ StopBits.two.byte = 2#8 := by
  decide +kernel

theorem witness_LinkStatusEmptiesCauses :
    let s := asking (linked board 0 fun x => { x with causes := 0x7F#7 }) 0 [5#8, 7#8]
    s.asked 0 5#8 7#8 [] ∧ (s.links[(0 : LinkId)]).causes ≠ 0#7 := by
  decide +kernel

theorem witness_HandlesAndTicketsName :
    board.named 0x22 = some (2, rec22) ∧ board.named 0x42 = none ∧ board.named 2 = none ∧
      queued.ticketed 0 0x11 = some (1, aJob 0 (.ir 0x24 1)) ∧ queued.ticketed 1 0x11 = none := by
  decide +kernel

theorem witness_StaleReferencesRefused :
    board.isOpen 0 ∧ board.named (0#8 : Byte).toNat = none ∧ board.named ((0xFF#8 : Byte).toNat * 256 + 0xFF) = none ∧
      board.ticketed 0 (0x10#8 : Byte).toNat = none ∧
      (∀ x ∈ [(0x11#8, []), (0x14#8, []), (0x15#8, []), (0x51#8, []), (0x13#8, [0#8, 0#8]),
          (0x20#8, [7#8, 0#8, 0#8, 0#8, 0#8]), (0x21#8, [0#8, 9#8, 0#8, 0#8, 0#8, 0#8] ++ List.replicate 2 0#8),
          (0x50#8, [8#8, 1#8, 1#8])],
        (asking board 0 (x.1 :: 7#8 :: 0xFF#8 :: 0xFF#8 :: x.2)).asked 0 x.1 7#8 (0xFF#8 :: 0xFF#8 :: x.2)) ∧
      (∀ code ∈ [0x23#8, 0x24#8], (asking board 0 [code, 7#8, 0x10#8]).asked 0 code 7#8 [0x10#8]) := by
  decide +kernel

theorem witness_ListReportsAndAcknowledges :
    (∀ b ∈ [4#8, 3#8, 0#8, 1#8, 2#8], (asking board 0 [0x10#8, 7#8, b]).asked 0 0x10#8 7#8 [b]) ∧
      board.isOpen 0 ∧ (board.chains[(3 : ChainId)]).phase = .disabled ∧
      (∀ c ∈ ([0, 1, 2] : List ChainId), (board.chains[c]).phase ≠ .disabled) := by
  decide +kernel

theorem witness_LookupReportsRecord :
    (asking board 0 [0x11#8, 7#8, 0#8, 0x22#8]).asked 0 0x11#8 7#8 [0#8, 0x22#8] ∧ board.isOpen 0 ∧
      (asking board 0 [0x11#8, 7#8, 0#8, 0x22#8]).named 0x22 = some (2, rec22) ∧
      (asking board 0 [0x11#8, 7#8, 0#8, 0x42#8]).asked 0 0x11#8 7#8 [0#8, 0x42#8] ∧ board.named 0x42 = none := by
  decide +kernel

theorem witness_FindReportsMatches :
    (asking board 0 ([0x12#8, 7#8] ++ List.replicate 8 0#8)).asked 0 0x12#8 7#8 (List.replicate 8 0#8) ∧
      board.isOpen 0 := by
  decide +kernel

/-- The worked board with 0023h in this state and C1 in this phase. -/
def claimable (x : RecordState) (p : ChainPhase) : State :=
  phased (recorded board 3 { rec23 with state := x }) 1 p

theorem witness_ClaimAnswers :
    (∀ x ∈ [(RecordState.available, ChainPhase.resetting .returning), (.suspect none, .fault .check),
        (.available, .ready), (.claimed 0, .ready), (.claimed 1, .ready), (.releasing, .ready)],
      (asking (claimable x.1 x.2) 0 [0x14#8, 7#8, 0#8, 0x23#8]).asked 0 0x14#8 7#8 [0#8, 0x23#8] ∧
      (asking (claimable x.1 x.2) 0 [0x14#8, 7#8, 0#8, 0x23#8]).isOpen 0 ∧
      (asking (claimable x.1 x.2) 0 [0x14#8, 7#8, 0#8, 0x23#8]).named 0x23 =
        some (3, { rec23 with state := x.1 })) ∧
      ChainPhase.ready.working :=
  ⟨by decide +kernel, Or.inl rfl⟩

theorem witness_ReleaseEndsClaim :
    ∀ x ∈ [((0 : LinkId), 0x22#8), (1, 0x22#8), (0, 0x24#8)],
      (asking queued x.1 [0x15#8, 7#8, 0#8, x.2]).asked x.1 0x15#8 7#8 [0#8, x.2] ∧ queued.isOpen x.1 ∧
        (asking queued x.1 [0x15#8, 7#8, 0#8, x.2]).placesDistinct ∧ (queued.named x.2.toNat).isSome = true ∧
        (x = (0, 0x22#8) ↔ (queued.named x.2.toNat).bind (fun y => y.2.state.owner) ≠ some x.1) := by
  decide +kernel

theorem witness_PatternCheckCuts :
    captureBits.length = 17 ∧ (∀ n ∈ [4, 5, 8], 2 ≤ n) ∧ patternOk 17 captureBits [4, 5, 8] = true ∧
      patternOk 17 captureBits [4, 4, 9] = false := by
  decide +kernel

/-- The nine bytes of an edit that sets an index to a code of DR length 8, INERT. -/
def setEdit (index code : Byte) : List Byte :=
  [index, 1#8, 0#8, 0#8, 0#8, code, 0#8, 8#8, 0#8]

/-- No QUEUED or RUNNING job names the handle, by a check of every slot. -/
theorem no_jobWaits {s : State} {h : Handle}
    (hs : ∀ j : JobId, ∀ x : Job, x ∈ (s.jobs[j]).job → x.isDone = true ∨ x.kind.target ≠ some h) : ¬ s.jobWaits h := by
  rintro ⟨j, x, hx, hd, ht⟩
  rcases hs j x hx with h1 | h1
  · rw [hd] at h1
    cases h1
  · exact h1 ht

/-- No other session owns a record of the chain, by a check of every slot. -/
theorem no_owner {s : State} {l : SessionId} {c : ChainId}
    (hs : ∀ i : SlotId, ∀ r : TargetRecord, r ∈ (s.slots[i]).record → r.chain ≠ c ∨ r.state.owner = none ∨
      r.state.owner = some l) : ¬ s.ownedByOthers l c := by
  rintro ⟨i, r, o, hr, hc, ho, hl⟩
  rcases hs i r hr with h1 | h1 | h1
  · exact h1 hc
  · rw [ho] at h1
    cases h1
  · rw [ho] at h1
    exact hl (Option.some.inj h1)

/-- A DESCRIBE of 0024h by session 0 with the given length and edits. -/
def describing (s : State) (len : Byte) (n : Byte) (rest : List Byte) : State :=
  asking s 0 (0x13#8 :: 7#8 :: 0#8 :: 0x24#8 :: len :: n :: rest)

/-- The refused requests, in the order of the checks: an action of 2; a bad handle; RESETTING; FAULT; another's
record; a waiting job; a malformed edit; a wrong length; no length; the resident's index; a code of all ones. -/
theorem witness_DescribeRefused :
    board.isOpen 0 ∧
      (editsOf [1#8, 2#8, 0#8, 0#8, 0#8, 0#8, 0#8, 0#8, 0#8]).any (fun e => decide (1 < e.action.toNat)) = true ∧
      (editsOf (setEdit 1#8 9#8)).all (fun e => decide (e.action.toNat ≤ 1)) = true ∧
      board.named 0x44 = none ∧ board.named 0x24 = some (4, rec24) ∧
      ((phased board 1 (.resetting .returning)).chains[(1 : ChainId)]).phase = .resetting .returning ∧
      ((phased board 1 (.fault .check)).chains[(1 : ChainId)]).phase = .fault .check ∧
      rec22.state.owner ≠ some 0 ∧ rec24.state.owner = some 0 ∧ queued.jobWaits 0x24 ∧ ¬ board.jobWaits 0x24 ∧
      editsIllFormed (editsOf (setEdit 8#8 9#8)) ∧ ¬ editsIllFormed (editsOf (setEdit 7#8 9#8)) ∧
      board.lengthPlan 4 rec24 7 = none ∧ board.lengthPlan 4 rec24 8 = some ⟨none, none⟩ ∧
      undescribed.lengthPlan 4 { rec24 with shape := .unknown } 0 = some ⟨none, none⟩ ∧
      ({ rec24 with resident := .index 1 } : TargetRecord).editsItsResident (editsOf (setEdit 1#8 9#8)) ∧
      rec24.codesClash 8 (editsOf (setEdit 1#8 0xFF#8)) ∧ rec24.codesClash 8 (editsOf (setEdit 1#8 3#8)) ∧
      (describing board 0#8 1#8 (setEdit 1#8 9#8)).asked 0 0x13#8 7#8
        (0#8 :: 0x24#8 :: 0#8 :: 1#8 :: setEdit 1#8 9#8) ∧
      (setEdit 1#8 9#8).length = 9 * (1#8 : Byte).toNat := by
  refine ⟨by decide +kernel, by decide +kernel, by decide +kernel, by decide +kernel, by decide +kernel,
    by decide +kernel, by decide +kernel, by decide, by decide, ⟨0, aJob 0 (.dr 0x24 [true]), ?_⟩, ?_, ?_, ?_,
    by decide +kernel, by decide +kernel, by decide +kernel, ⟨1, ?_⟩, ?_, ?_, by decide +kernel, by decide⟩
  · decide +kernel
  · exact no_jobWaits (by decide +kernel)
  · exact Or.inl ⟨(editsOf (setEdit 8#8 9#8)).head (by decide), by decide⟩
  · unfold editsIllFormed
    decide
  · exact ⟨(editsOf (setEdit 1#8 9#8)).head (by decide), by decide⟩
  · exact ⟨(editsOf (setEdit 1#8 0xFF#8)).head (by decide), by decide, by decide, Or.inr (Or.inl (by decide))⟩
  · exact ⟨(editsOf (setEdit 1#8 3#8)).head (by decide), by decide, by decide,
      Or.inr (Or.inr ⟨1, ⟨3#32, 8, .held⟩, by decide +kernel⟩)⟩

/-- C1 with only the length of position 0 known, or only that of position 1 unknown: two records left unknown, one, and
none. -/
theorem witness_DescribeLengthStep :
    let r : TargetRecord := { rec24 with shape := .unknown }
    let others : State → List (SlotId × TargetRecord) := fun s =>
      ((s.chainRecords 1).filter fun (k, _) => decide (k ≠ 4)).filter fun (_, q) => q.irLength.isNone
    (others (recorded undescribed 2 { rec22 with shape := .unknown })).length = 2 ∧
      others undescribed = [(3, { rec23 with shape := .unknown })] ∧ others (recorded board 4 r) = [] ∧
      ((undescribed.chains[(1 : ChainId)]).totalIr = 17 ∧ r.irLength = none ∧ rec24.irLength = some 8) ∧
      patternOk 17 captureBits [4, 5, 8] = true ∧ patternOk 17 captureBits [4, 4, 9] = false := by
  decide +kernel

theorem witness_DescribeWrites :
    (describing undescribed 8#8 1#8 (setEdit 1#8 9#8)).asked 0 0x13#8 7#8
        (0#8 :: 0x24#8 :: 8#8 :: 1#8 :: setEdit 1#8 9#8) ∧
      undescribed.named 0x24 = some (4, { rec24 with shape := .unknown, entries := Vector.replicate 7 none }) ∧
      (undescribed.chains[(1 : ChainId)]).phase.working ∧ rec24.state.owner = some 0 ∧
      ¬ undescribed.jobWaits 0x24 ∧ (∀ e ∈ editsOf (setEdit 1#8 9#8), e.action.toNat ≤ 1) ∧
      ¬ editsIllFormed (editsOf (setEdit 1#8 9#8)) ∧
      undescribed.lengthPlan 4 { rec24 with shape := .unknown, entries := Vector.replicate 7 none } 8 =
        some ⟨some 8, some (3, 5)⟩ ∧
      ¬ rec24.editsItsResident (editsOf (setEdit 1#8 9#8)) ∧
      ¬ ({ rec24 with entries := Vector.replicate 7 none } : TargetRecord).codesClash 8
        (editsOf (setEdit 1#8 9#8)) := by
  refine ⟨by decide +kernel, by decide +kernel, Or.inl (by decide +kernel), by decide, no_jobWaits (by decide +kernel),
    by decide, ?_, by decide +kernel, ?_, ?_⟩
  · unfold editsIllFormed
    decide
  · rintro ⟨x, e, hx, he, h⟩
    cases hx
    simp [editsOf, setEdit] at he
    subst he
    revert h
    decide
  · rintro ⟨e, he, -, h | h | ⟨k, y, hk, hy, h⟩⟩
    · simp [editsOf, setEdit] at he
      subst he
      revert h
      decide
    · simp [editsOf, setEdit] at he
      subst he
      revert h
      decide
    · simp [editsOf, setEdit] at he
      subst he
      revert k y
      decide

/-- A SCAN-IR of 0024h by session 0. -/
def scanningIr (s : State) (x : Byte) : State :=
  asking s 0 [0x20#8, 7#8, 0#8, 0x24#8, x, 0#8, 0#8, 0#8, 0#8]

/-- Sixteen jobs of session 1: no slot is FREE. -/
def fullTable : State :=
  { board with jobs := Vector.replicate 16 ⟨1, some (aJob 1 (.ir 0x22 1))⟩ }

/-- Four jobs of session 0. -/
def fullSession : State :=
  jobbed (jobbed (jobbed (jobbed board 0 (aJob 0 (.ir 0x24 1))) 1 (aJob 0 (.ir 0x24 1))) 2 (aJob 0 (.ir 0x24 1))) 3
    (aJob 0 (.ir 0x24 1))

theorem witness_EntersJob :
    4 ≤ fullSession.jobsHeld 0 ∧ fullTable.jobsHeld 0 < 4 ∧ (∀ j : JobId, (fullTable.jobs[j]).job ≠ none) ∧
      queued.jobsHeld 0 < 4 ∧ queued.lowestFree 3 := by
  decide +kernel

theorem witness_ScanIrEntersJob :
    (∀ x ∈ [8#8, 0#8, 2#8, 3#8, 7#8], (scanningIr board x).asked 0 0x20#8 7#8
        [0#8, 0x24#8, x, 0#8, 0#8, 0#8, 0#8]) ∧
      board.isOpen 0 ∧ board.named 0x44 = none ∧ board.named 0x24 = some (4, rec24) ∧
      (phased board 1 (.resetting .returning)).named 0x24 = some (4, rec24) ∧
      (phased board 1 (.fault .check)).named 0x24 = some (4, rec24) ∧ ChainPhase.ready.working ∧
      rec24.state.owner = some 0 ∧ rec22.state.owner ≠ some 0 ∧ rec24.irLength ≠ none ∧
      ({ rec24 with shape := .unknown } : TargetRecord).irLength = none ∧
      (∃ m : Fin 7, 3 = m.val + 1 ∧ rec24.entries[m] = none) ∧
      (∃ m : Fin 7, 2 = m.val + 1 ∧ rec24.entries[m] ≠ none) :=
  ⟨by decide +kernel, by decide +kernel, by decide +kernel, by decide +kernel, by decide +kernel, by decide +kernel,
    Or.inl rfl, by decide, by decide, by decide, by decide, by decide, by decide⟩

theorem witness_ScanDrEntersJob :
    (∀ x ∈ [(0#8, 0#8, 0), (4#8, 1#8, 129), (0#8, 1#8, 1), (0#8, 9#8, 2)],
      (asking board 0 (0x21#8 :: 7#8 :: 0#8 :: 0x24#8 :: x.1 :: x.2.1 :: 0#8 :: 0#8 :: 0#8 :: 0#8 ::
          List.replicate x.2.2 0#8)).asked 0 0x21#8 7#8
        (0#8 :: 0x24#8 :: x.1 :: x.2.1 :: 0#8 :: 0#8 :: 0#8 :: 0#8 :: List.replicate x.2.2 0#8) ∧
      (List.replicate x.2.2 0#8).length = (x.1.toNat * 256 + x.2.1.toNat + 7) / 8) ∧
      board.isOpen 0 ∧ board.named 0x44 = none ∧ board.named 0x24 = some (4, rec24) ∧
      rec24.state.owner = some 0 ∧ rec22.state.owner ≠ some 0 := by
  decide +kernel

theorem witness_ChainResetEntersJob :
    (∀ b ∈ [4#8, 3#8, 0#8, 1#8, 2#8], (asking board 0 [0x22#8, 7#8, b, 0#8, 0#8, 0#8, 0#8]).asked 0 0x22#8 7#8
        [b, 0#8, 0#8, 0#8, 0#8]) ∧
      board.isOpen 0 ∧ board.ownedByOthers 0 1 ∧
      ¬ (recorded board 2 { rec22 with state := .available }).ownedByOthers 0 1 ∧
      (board.chains[(0 : ChainId)]).phase = .resetting .enumerate ∧
      ((phased board 0 (.enumerating .idRead)).chains[(0 : ChainId)]).phase = .enumerating .idRead ∧
      (board.chains[(1 : ChainId)]).phase.working ∧ (board.chains[(2 : ChainId)]).phase = .fault .tooMany ∧
      (board.chains[(3 : ChainId)]).phase = .disabled :=
  ⟨by decide +kernel, by decide +kernel, ⟨2, rec22, 1, by decide +kernel, rfl, rfl, by decide⟩,
    no_owner (by decide +kernel), by decide +kernel, by decide +kernel, Or.inl (by decide +kernel),
    by decide +kernel, by decide +kernel⟩

/-- The worked board with session 0's job in J1 in this status. -/
def withStatus (x : JobStatus) : State :=
  jobbed board 1 { aJob 0 (.ir 0x24 1) with status := x }

theorem witness_FetchFreesDoneJob :
    ∀ x ∈ [JobStatus.running, .done .ok [true, false], .done .timeout []],
      (asking (withStatus x) 0 [0x23#8, 7#8, 0x11#8]).asked 0 0x23#8 7#8 [0x11#8] ∧ (withStatus x).isOpen 0 ∧
      (withStatus x).ticketed 0 0x11 = some (1, { aJob 0 (.ir 0x24 1) with status := x }) := by
  decide +kernel

theorem witness_CancelFreesQueuedJob :
    ∀ x ∈ [JobStatus.queued none, .running, .done .ok [true, false]],
      (asking (withStatus x) 0 [0x24#8, 7#8, 0x11#8]).asked 0 0x24#8 7#8 [0x11#8] ∧ (withStatus x).isOpen 0 ∧
      (withStatus x).ticketed 0 0x11 = some (1, { aJob 0 (.ir 0x24 1) with status := x }) := by
  decide +kernel

/-- Nothing stands in the way of a RESCAN of C1: no job, no park, and no owner but session 0. -/
def rescannable : State :=
  recorded board 2 { rec22 with state := .available }

theorem witness_RescanRestartsChain :
    (∀ b ∈ [4#8, 3#8, 0#8, 1#8, 2#8], (asking board 0 [0x30#8, 7#8, b]).asked 0 0x30#8 7#8 [b]) ∧
      board.isOpen 0 ∧ board.ownedByOthers 0 1 ∧ (board.chains[(1 : ChainId)]).phase = .ready ∧
      (∀ j : JobId, (rescannable.jobs[j]).job = none) ∧ (rescannable.chains[(1 : ChainId)]).parks = [] ∧
      ¬ rescannable.ownedByOthers 0 1 ∧
      (asking rescannable 0 [0x30#8, 7#8, 1#8]).asked 0 0x30#8 7#8 [1#8] :=
  ⟨by decide +kernel, by decide +kernel, ⟨2, rec22, 1, by decide +kernel, rfl, rfl, by decide⟩, by decide +kernel,
    by decide +kernel, by decide +kernel, no_owner (by decide +kernel), by decide +kernel⟩

theorem witness_ChainConfigReplacesSettings :
    (∀ x ∈ [[4#8, 1#8, 0#8], [1#8, 0#8, 0#8], [1#8, 1#8, 2#8], [3#8, 1#8, 1#8], [2#8, 1#8, 1#8], [0#8, 0xFF#8, 1#8],
        [1#8, 1#8, 0#8]], (asking board 0 (0x31#8 :: 7#8 :: x)).asked 0 0x31#8 7#8 x) ∧
      board.isOpen 0 ∧ board.ownedByOthers 0 1 ∧ ¬ board.ownedByOthers 0 0 ∧
      (board.chains[(0 : ChainId)]).phase = .resetting .enumerate :=
  ⟨by decide +kernel, by decide +kernel, ⟨2, rec22, 1, by decide +kernel, rfl, rfl, by decide⟩,
    no_owner (by decide +kernel), by decide +kernel⟩

/-- PROFILE-ADD parameters with full mask of the value's low byte, one entry of code 1 or none. -/
def profileParams (v len n : Byte) (rest : List Byte) : List Byte :=
  [0#8, 0#8, 0#8, v, 0xFF#8, 0xFF#8, 0xFF#8, 0xFF#8, len, n] ++ rest

/-- The seven bytes of a PROFILE-ADD entry of DR length 1, INERT. -/
def rawEntry (code : Byte) : List Byte :=
  [0#8, 0#8, 0#8, code, 0#8, 1#8, 0#8]

theorem witness_ProfileAddAppends :
    (∀ x ∈ [(1#8, 0#8, []), (33#8, 0#8, []), (2#8, 1#8, rawEntry 3#8), (2#8, 1#8, rawEntry 4#8),
        (2#8, 2#8, rawEntry 1#8 ++ rawEntry 1#8), (2#8, 1#8, rawEntry 2#8), (32#8, 0#8, [])],
      (asking board 0 (0x40#8 :: 7#8 :: profileParams 5#8 x.1 x.2.1 x.2.2)).asked 0 0x40#8 7#8
        (profileParams 5#8 x.1 x.2.1 x.2.2) ∧ x.2.2.length = 7 * x.2.1.toNat) ∧
      board.isOpen 0 ∧ (rawEntriesOf (rawEntry 2#8)).map RawEntry.code = [2#32] ∧
      (∃ p ∈ [(⟨5#32, 0xFFFFFFFF#32, 4, []⟩ : Profile)], p.mask = 0xFFFFFFFF#32 ∧ p.value &&& p.mask = 5#32) ∧
      16 ≤ (List.replicate 16 profile).length ∧ board.profiles.length < 16 := by
  decide +kernel

theorem witness_ProfileDropAndRead :
    (asking { board with profiles := [profile] } 0 [0x41#8, 7#8, 0#8]).asked 0 0x41#8 7#8 [0#8] ∧
      (asking { board with profiles := [profile] } 0 [0x41#8, 7#8, 1#8]).asked 0 0x41#8 7#8 [1#8] ∧
      (asking { board with profiles := [profile] } 0 [0x42#8, 7#8, 0#8]).asked 0 0x42#8 7#8 [0#8] ∧
      (asking { board with profiles := [profile] } 0 [0x42#8, 7#8, 1#8]).asked 0 0x42#8 7#8 [1#8] ∧
      board.isOpen 0 := by
  decide +kernel

theorem witness_BindEventBinds :
    (∀ x ∈ [[0#8, 0x24#8, 0#8, 2#8, 0#8], [0#8, 0x24#8, 0#8, 0#8, 2#8], [0#8, 0x44#8, 0#8, 0#8, 0#8],
        [0#8, 0x22#8, 0#8, 0#8, 0#8], [0#8, 0x24#8, 8#8, 0#8, 0#8], [0#8, 0x24#8, 2#8, 1#8, 1#8],
        [0#8, 0x24#8, 7#8, 1#8, 1#8]], (asking filtered 0 (0x50#8 :: 7#8 :: x)).asked 0 0x50#8 7#8 x) ∧
      filtered.isOpen 0 ∧ filtered.named 0x24 = some (4, rec24) ∧ filtered.named 0x44 = none ∧
      (filtered.lines[(2 : LineId)]).binding = some 0x22 ∧ filtered.named 0x22 = some (2, rec22) ∧
      rec22.state.owner = some 1 ∧ (filtered.lines[(7 : LineId)]).binding = none := by
  decide +kernel

theorem witness_EventLinesUnbindAndReport :
    (asking filtered 0 [0x51#8, 7#8, 0#8, 0x22#8]).asked 0 0x51#8 7#8 [0#8, 0x22#8] ∧
      (asking filtered 1 [0x51#8, 7#8, 0#8, 0x22#8]).asked 1 0x51#8 7#8 [0#8, 0x22#8] ∧
      (asking filtered 1 [0x52#8, 7#8]).asked 1 0x52#8 7#8 [] ∧ filtered.isOpen 0 ∧ filtered.isOpen 1 ∧
      filtered.named 0x22 = some (2, rec22) := by
  decide +kernel

/-- E2 taken HIGH: a HIGH sample, a LOW one, and a second LOW one. -/
theorem witness_TickCountsAndSamples :
    filtered.live = true ∧ filtered.tickRunning = true ∧ (filtered.lines[(2 : LineId)]).taken = .high ∧
      (filtered.lines[(2 : LineId)]).candidate ≠ some false ∧
      ((next (.eventLineSample 0#8) filtered).lines[(2 : LineId)]).candidate = some false ∧
      (board.lines[(0 : LineId)]).taken = .unsettled := by
  decide +kernel

/-- Session 0 with its keepalive timer at this count. -/
def aged (n : Nat) : State :=
  sessioned board 0 (some { aSession [0x57#8] true 2#4 with timer := some n })

theorem witness_SessionEnds :
    (asking board 0 [2#8, 7#8]).asked 0 2#8 7#8 [] ∧ board.isOpen 0 ∧ (aged 20000).live = true ∧
      (∀ n ∈ [20000, 19999], (aged n).sessions[(0 : SessionId)] =
        some { aSession [0x57#8] true 2#4 with timer := some n }) ∧
      (aSession [0x57#8] true 2#4).period ≠ 0 := by
  decide +kernel

theorem witness_WaitLimitTimesOut :
    ∀ n ∈ [500, 499], (((withStatus (.queued (some n))).jobs[(1 : JobId)]).job =
        some { aJob 0 (.ir 0x24 1) with status := .queued (some n) }) ∧
      (withStatus (.queued (some n))).live = true ∧ (aJob 0 (.ir 0x24 1)).session = some 0 ∧
      ({ aJob 0 (.ir 0x24 1) with waitLimit := 500 } : Job).waitLimit ≠ 0 := by
  decide +kernel

theorem witness_ReceiverMoves :
    board.live = true ∧ (board.links[(0 : LinkId)]).receiver = .markWait ∧
      ((next (.lineAtMarking 0) board).links[(0 : LinkId)]).receiver = .startWait ∧
      ((runs board [.lineAtMarking 0, .startBit 0]).links[(0 : LinkId)]).receiver =
        .character ⟨120, .none, .one⟩ ∧
      (let s := runs board (.lineAtMarking 0 :: arrivals 0 ⟨120, .none, .one⟩ [0xD5#8] ++ [.startBit 0, .gapExpiry 0])
       (s.links[(0 : LinkId)]).gap = .overdue ∧ (s.links[(0 : LinkId)]).assembler ≠ .hunt) := by
  decide +kernel

/-- L0 in CHARACTER with this assembler. -/
def receiving (f : LinkFormat) (a : Assembler) : State :=
  linked board 0 fun x => { x with receiver := .character f, assembler := a, gap := .running }

theorem witness_CharacterIsJudged :
    (receiving ⟨120, .even, .one⟩ .hunt).live = true ∧
      ((receiving ⟨120, .even, .one⟩ .hunt).links[(0 : LinkId)]).receiver = .character ⟨120, .even, .one⟩ ∧
      parityAgrees .even 0xD5#8 true ∧ ¬ parityAgrees .even 0xD5#8 false ∧ parityAgrees .none 2#8 false ∧
      (∀ a ∈ [Assembler.hunt, .length, .body 2#8 [], .body 2#8 [3#8], .check 2#8 [3#8, 0x40#8] none,
          .check 2#8 [3#8, 0x40#8] (some 0xBF#8)],
        ((receiving ⟨120, .none, .one⟩ a).links[(0 : LinkId)]).assembler = a) ∧
      (0xBF#8 ++ 0x6A#8 : BitVec 16) ≠ crc16 [2#8, 3#8, 0x40#8] := by
  refine ⟨by decide +kernel, by decide +kernel, ?_, ?_, trivial, by decide +kernel, by decide +kernel⟩
  · show ((List.range 8).countP (0xD5#8 : Byte).getLsbD + true.toNat) % 2 = 0
    decide
  · show ¬ ((List.range 8).countP (0xD5#8 : Byte).getLsbD + false.toNat) % 2 = 0
    decide

theorem witness_FrameArrivesWhole :
    let s := next (.lineAtMarking 0) board
    s.live = true ∧ (s.links[(0 : LinkId)]).receiver = .startWait ∧ (s.links[(0 : LinkId)]).assembler = .hunt ∧
      (s.links[(0 : LinkId)]).gap = .stopped ∧ (s.links[(0 : LinkId)]).slot = .empty ∧
      (linked s 0 fun x => { x with slot := .taken }).links[(0 : LinkId)].slot ≠ .empty ∧
      2 ≤ [3#8, 0x40#8].length ∧ (List.replicate 250 0#8).length ≤ 250 := by
  decide +kernel

theorem witness_GapAndBreakResetLink :
    ((runs board (.lineAtMarking 0 :: arrivals 0 ⟨120, .none, .one⟩ [0xD5#8, 0x02#8] ++
        [.startBit 0])).links[(0 : LinkId)]).gap = .candidate ∧
      ((runs board (.lineAtMarking 0 :: arrivals 0 ⟨120, .none, .one⟩ [0xD5#8, 0x02#8] ++
        [.startBit 0, .gapExpiry 0])).links[(0 : LinkId)]).gap = .overdue ∧
    ((receiving ⟨120, .none, .one⟩ .length).links[(0 : LinkId)]).gap = .running ∧
      ((receiving ⟨120, .none, .one⟩ .length).links[(0 : LinkId)]).assembler ≠ .hunt ∧
      (board.links[(0 : LinkId)]).gap ≠ .running ∧
      ((receiving ⟨120, .none, .one⟩ .length).links[(0 : LinkId)]).receiver = .character ⟨120, .none, .one⟩ ∧
      (board.links[(0 : LinkId)]).receiver = .markWait := by
  decide +kernel

/-- L0 once a LINK-FORMAT is executed: its reply waits, with a pending format. -/
def replying : State :=
  next (.linkFormat 0) (asking board 0 [4#8, 63#8, 0#8, 10#8, 1#8, 1#8])

theorem witness_ReplyIsSent :
    replying.live = true ∧ ((replying.links[(0 : LinkId)]).waiting).isSome = true ∧
      (replying.links[(0 : LinkId)]).tx = .idle ∧
      ((next (.replyStart 0) replying).links[(0 : LinkId)]).tx =
        .reply (sentFrame [0x84#8, 63#8, 0#8, 0#8, 0#8, 10#8, 1#8, 1#8]) ⟨120, .none, .one⟩ ∧
      ((next (.replyStart 0) replying).links[(0 : LinkId)]).pendingFormat = some ⟨10, .even, .one⟩ ∧
      (board.links[(0 : LinkId)]).waiting = none := by
  decide +kernel

/-- L1 with a queued NOTICE, and these causes, jobs, flags and changed sets behind it. -/
def noticing (causes : BitVec 7) (done flag : Bool) (changed : BitVec 4) : State :=
  let s := linked board 1 fun x => { x with queuedNotice := true, causes := causes }
  let t := if done then jobbed s 0 { aJob 1 .chainReset with status := .done .ok [] } else s
  let u := if flag then
      { t with lines := t.lines.set 2 ⟨.low, none, some 0x22, .assertLow, .assertOnly, true⟩ }
    else t
  sessioned u 1 (some { aSession [0x42#8] true 0#4 with changed := changed })

theorem witness_NoticeIsSent :
    (∀ s ∈ [noticing 1#7 true true 2#4, noticing 0#7 true true 2#4, noticing 0#7 false true 2#4,
        noticing 0#7 false false 2#4, noticing 0#7 false false 0#4],
      s.live = true ∧ (s.links[(1 : LinkId)]).queuedNotice = true ∧ (s.links[(1 : LinkId)]).tx = .idle ∧
        (s.links[(1 : LinkId)]).waiting = none) ∧
      (noticing 1#7 true true 2#4).pends 1 .linkFault = true ∧
      (noticing 0#7 true true 2#4).pends 1 .linkFault = false ∧
      (noticing 0#7 true true 2#4).pends 1 .jobDone = true ∧
      (noticing 0#7 false true 2#4).pends 1 .jobDone = false ∧
      (noticing 0#7 false true 2#4).pends 1 .targetEvent = true ∧
      (noticing 0#7 false false 2#4).pends 1 .targetEvent = false ∧
      (noticing 0#7 false false 2#4).pends 1 .directoryChange = true ∧
      (noticing 0#7 false false 0#4).pends 1 .directoryChange = false ∧
      ((next (.noticeStart 1) (noticing 1#7 true true 2#4)).links[(1 : LinkId)]).tx =
        .notice (sentFrame [0xF0#8, 1#8]) ⟨120, .none, .one⟩ := by
  decide +kernel

theorem witness_NoticeKindsPend : board.sessions[(2 : SessionId)] = none ∧ board.isOpen 0 := by decide +kernel

theorem witness_IdentitiesReadBack :
    board.live = true ∧ (board.chains[(0 : ChainId)]).phase = .resetting .enumerate ∧
      ((phased board 0 (.enumerating .idRead)).chains[(0 : ChainId)]).phase = .enumerating .idRead ∧
      (List.replicate 16 (some 0x1A3B6045#32)).length ≤ 16 ∧ codeIsItem (List.replicate 16 (some 0x1A3B6045#32)) ∧
      (List.replicate 17 (none : Option Word32)).length = 17 ∧ codeIsItem (List.replicate 17 none) ∧
      EnumStep.idRead.shifts [true] ≠ some 1 ∧ EnumStep.idRead.shifts (List.replicate 32 true) = some 32 ∧
      ((next (.testResetComplete 1) unscanned).chains[(1 : ChainId)]).op ≠ none := by
  refine ⟨by decide +kernel, by decide +kernel, by decide +kernel, by decide, ?_, by decide, ?_, by decide +kernel,
    by decide +kernel, by decide +kernel⟩
  · intro code h
    rw [List.eq_of_mem_replicate h |> Option.some.inj]
    decide
  · intro code h
    cases List.eq_of_mem_replicate h

/-- C0 at IR_MEASURE with two targets. -/
def measuring : State :=
  phased board 0 (.enumerating (.irMeasure [none, none]))

theorem witness_InstructionRegistersMeasured :
    measuring.live = true ∧ (measuring.chains[(0 : ChainId)]).phase = .enumerating (.irMeasure [none, none]) ∧
      (∀ k ∈ [512, 515, 516, 1024], (List.replicate k false ++ [true])[k]? = some true ∧
        ∀ i, 512 ≤ i → i < k → (List.replicate k false ++ [true])[i]? = some false) ∧
      2 * 2 ≤ 516 - 512 ∧ 515 - 512 < 2 * 2 ∧
      ∀ i, 512 ≤ i → i ≤ 1024 → (List.replicate 1025 false)[i]? = some false := by
  refine ⟨by decide +kernel, by decide +kernel, fun k _ => ⟨by simp, fun i _ hi => ?_⟩, by decide, by decide,
    fun i _ hi => ?_⟩
  · rw [List.getElem?_append_left (by simpa using hi)]
    simp [hi]
  · rw [List.getElem?_replicate, if_pos (by omega)]

/-- C0 at BYPASS_COUNT. -/
def counting (ids : List (Option Word32)) (total : Nat) : State :=
  phased board 0 (.enumerating (.bypassCount ids total []))

theorem witness_BypassCounted :
    (counting [none, none] 5).live = true ∧
      ((counting [none, none] 5).chains[(0 : ChainId)]).phase = .enumerating (.bypassCount [none, none] 5 []) ∧
      ((counting [] 0).chains[(0 : ChainId)]).phase = .enumerating (.bypassCount [] 0 []) ∧
      (∀ k ∈ [0, 1, 2], (List.replicate k false ++ [true])[k]? = some true ∧
        ∀ i, i < k → (List.replicate k false ++ [true])[i]? = some false) ∧
      ∀ i, i ≤ 2 → (List.replicate 3 false)[i]? = some false := by
  refine ⟨by decide +kernel, by decide +kernel, by decide +kernel, by decide, by decide⟩

/-- 2.9 is consistent; a total of 3 is not, nor is the capture of 2.9 with every record at length 4. -/
theorem witness_ProfilesAreShapeChecked :
    (describeNew [profile] [some 0x1A3B6045#32, none, some 0x0E2D1033#32] 17 captureBits).2 = false ∧
      (describeNew [profile] [some 0x1A3B6045#32] 3 [true, false, false]).2 = true ∧
      (describeNew [profile] [some 0x1A3B6045#32] 5 [true, false, false, false, false]).2 = true := by
  decide +kernel

/-- C1 at its closing action, with all slots but S0 and S1 FREE, and with one FREE. -/
theorem witness_ClosingActionAllocates :
    let s := runs unscanned enumeration
    let t : State := { s with slots := (Vector.replicate 32 ⟨1, some rec23⟩ : Vector RecordSlot 32).set 5 ⟨1, none⟩ }
    s.live = true ∧
      (s.chains[(1 : ChainId)]).phase =
        .enumerating (.closing [some 0x1A3B6045#32, none, some 0x0E2D1033#32] 17 captureBits) ∧
      3 ≤ ((List.finRange 32).filter fun i => (s.slots[i]).record.isNone).length ∧
      ((List.finRange 32).filter fun i => (t.slots[i]).record.isNone).length < 3 := by
  decide +kernel

/-! ### Witnesses about grants, scans and resets -/

/-- A chain of a queue of one job has that job as its oldest grantable one, if no record stands in its way. -/
theorem oldest_alone {s : State} {c : ChainId} {j : JobId} {x : Job} (hq : (s.chains[c]).queue = [j])
    (hx : (s.jobs[j]).job = some x) (hw : x.isQueued = true)
    (hr : ∀ i : SlotId, ∀ r : TargetRecord, r ∈ (s.slots[i]).record → r.irLength ≠ none ∧
      (∀ h out, x.kind = .dr h out → s.handleOf i = h ∨ r.residentClass = some .inert)) :
    s.oldestGrantable c j x := by
  refine ⟨[], [], hq, hx, hw, ?_, ?_⟩
  · unfold State.mayRun
    cases hk : x.kind with
    | ir h m =>
      exact ⟨fun ⟨_, _, hm, _⟩ => (List.not_mem_nil hm).elim, fun i r hir _ => (hr i r hir).1⟩
    | dr h out =>
      exact ⟨fun ⟨_, _, hm, _⟩ => (List.not_mem_nil hm).elim, fun i r hir _ hne =>
        ((hr i r hir).2 h out hk).resolve_left hne⟩
    | chainReset => exact fun ⟨_, _, hm, _⟩ => (List.not_mem_nil hm).elim
  · intro pre k post y he
    cases pre <;> cases he

/-- The worked board with one job, in J0. -/
def single (x : Job) : State :=
  jobbed board 0 x

theorem single_oldest {x : Job} (hc : x.chain = 1) (hw : x.isQueued = true)
    (hk : ∀ h out, x.kind = .dr h out → h = 0x22) : (single x).oldestGrantable 1 0 x := by
  refine oldest_alone ?_ ?_ hw ?_
  · simp only [single, jobbed, hc]
    rfl
  · rfl
  · intro i r hr
    have h1 : r.irLength ≠ none ∧ (r.residentClass = some .inert ∨ i = 2) := by
      have h2 : ∀ i : SlotId, ∀ r : TargetRecord, r ∈ (board.slots[i]).record →
          r.irLength ≠ none ∧ (r.residentClass = some .inert ∨ i = 2) := by decide +kernel
      exact h2 i r hr
    refine ⟨h1.1, fun h out he => ?_⟩
    rcases h1.2 with h2 | rfl
    · exact Or.inr h2
    · rw [hk h out he]
      exact Or.inl rfl

/-- A park; jobs of each kind that may run, a DR job of the wrong length among them; and an empty queue. -/
theorem witness_GrantTakesWork :
    board.live = true ∧ (board.chains[(1 : ChainId)]).phase = .ready ∧ (board.chains[(1 : ChainId)]).parks = [] ∧
      (let s : State := { board with chains := board.chains.set 1 { chainOne with parks := [0x22] } }
       (s.chains[(1 : ChainId)]).parks = 0x22 :: [] ∧ s.named 0x22 = some (2, rec22)) ∧
      (single (aJob 0 (.ir 0x24 1))).oldestGrantable 1 0 (aJob 0 (.ir 0x24 1)) ∧
      (single (aJob 0 (.ir 0x24 1))).lengthFits (aJob 0 (.ir 0x24 1)) ∧
      (single (aJob 1 (.dr 0x22 (List.replicate 16 true)))).oldestGrantable 1 0
        (aJob 1 (.dr 0x22 (List.replicate 16 true))) ∧
      (single (aJob 1 (.dr 0x22 (List.replicate 16 true)))).lengthFits (aJob 1 (.dr 0x22 (List.replicate 16 true))) ∧
      (single (aJob 1 .chainReset)).oldestGrantable 1 0 (aJob 1 .chainReset) ∧
      (single (aJob 1 (.dr 0x22 [true]))).oldestGrantable 1 0 (aJob 1 (.dr 0x22 [true])) ∧
      ¬ (single (aJob 1 (.dr 0x22 [true]))).lengthFits (aJob 1 (.dr 0x22 [true])) ∧
      (∀ j y, ¬ board.oldestGrantable 1 j y) ∧ (board.chains[(0 : ChainId)]).phase ≠ .ready := by
  refine ⟨by decide +kernel, by decide +kernel, by decide +kernel, by decide +kernel,
    single_oldest rfl rfl (fun _ _ h => by cases h), (fun _ _ h => by cases h),
    single_oldest rfl rfl (fun _ _ h => by cases h; rfl), ?_,
    single_oldest rfl rfl (fun _ _ h => by cases h), single_oldest rfl rfl (fun _ _ h => by cases h; rfl), ?_, ?_,
    by decide +kernel⟩
  · intro h out he
    cases he
    exact ⟨2, rec22, by decide +kernel, by decide +kernel⟩
  · intro hf
    obtain ⟨i, r, hn, hl⟩ := hf 0x22 [true] rfl
    have h1 : (single (aJob 1 (.dr 0x22 [true]))).named 0x22 = some (2, rec22) := by decide +kernel
    rw [h1] at hn
    cases hn
    revert hl
    decide
  · rintro j y ⟨ahead, rest, hq, -⟩
    have h1 : (board.chains[(1 : ChainId)]).queue = [] := by decide +kernel
    rw [h1] at hq
    cases ahead <;> cases hq

/-- A command that answers a next state answers `next`. -/
theorem exec_next {i : Instr} {s : State} (h : (match exec i s with
    | .next _ => true
    | _ => false) = true) : exec i s = .next (next i s) := by
  unfold next
  cases hx : exec i s with
  | next t => rfl
  | fault f => cases f
  | refused r =>
    rw [hx] at h
    cases h

theorem witness_DrScansAreSafe :
    exec (.grant 1) queued = .next (next (.grant 1) queued) ∧
      (∃ x, ((next (.grant 1) queued).chains[(1 : ChainId)]).phase = .scanning x ∧ x.kind = .dr) ∧
      (queued.chains[(1 : ChainId)]).phase = .ready := by
  refine ⟨exec_next (by decide +kernel), ?_, by decide +kernel⟩
  have h : (scanOf (next (.grant 1) queued)).map Scan.kind = some .dr := by decide +kernel
  unfold scanOf at h
  split at h
  · rename_i x hx
    exact ⟨x, hx, Option.some.inj h⟩
  · cases h

/-- The instruction scan of 5.10.1. -/
def irScanOne (source : ScanSource) : Scan :=
  ⟨source, .ir, some 0, [⟨[false, false, true, true], .signature⟩, ⟨List.replicate 5 true, .signature⟩,
    ⟨List.replicate 8 true, .signature⟩], 0, 8, .entry, []⟩

/-- The data scan of 5.10.3. -/
def drScanOne : Scan :=
  ⟨.job 0, .dr, some 1, [⟨List.replicate 32 true, .exactly (bits32 0x1A3B6045#32)⟩, ⟨[true], .nothing⟩,
    ⟨List.replicate 32 true, .exactly (bits32 0x0E2D1033#32)⟩], 0, 8, .entry, []⟩

/-- What each position returns to it in 5.10.1. -/
def irCaps : List (List Bool) :=
  [[true, false, false, false], true :: List.replicate 4 false, true :: List.replicate 7 false]

theorem irScanOne_checks (source : ScanSource) :
    (irScanOne source).returns irCaps captureBits ∧ (irScanOne source).checks irCaps := by
  refine ⟨⟨rfl, by decide, ?_⟩, ?_⟩
  · intro p g b hg hb
    obtain _ | _ | _ | p := p <;> simp [irScanOne, irCaps] at hg hb <;> subst hg hb <;> rfl
  · intro p g b hg hb
    obtain _ | _ | _ | p := p <;> simp [irScanOne, irCaps] at hg hb <;> subst hg hb <;> exact ⟨rfl, rfl⟩

/-- What each position returns to the data scan of 5.10.3, before and after the device at position 2 is exchanged. -/
def drCaps (code : Word32) : List (List Bool) :=
  [bits32 0x1A3B6045#32, [true], bits32 code]

theorem drScanOne_returns (code : Word32) :
    drScanOne.returns (drCaps code) (bits32 code ++ [true] ++ bits32 0x1A3B6045#32) := by
  refine ⟨rfl, by simp [drCaps], ?_⟩
  intro p g b hg hb
  obtain _ | _ | _ | p := p <;> simp [drScanOne, drCaps] at hg hb <;> subst hg hb <;> simp [bits32]

theorem drScanOne_checks : drScanOne.checks (drCaps 0x0E2D1033#32) := by
  intro p g b hg hb
  obtain _ | _ | _ | p := p <;> simp [drScanOne, drCaps] at hg hb <;> subst hg hb <;> first | rfl | trivial

theorem drScanOne_fails : ¬ drScanOne.checks (drCaps 0x1E2D1033#32) := by
  intro h
  have h1 : bits32 0x1E2D1033#32 = bits32 0x0E2D1033#32 := h 2 _ _ rfl rfl
  revert h1
  decide +kernel

theorem witness_ScanBitsAreOrdered :
    (irScanOne (.job 0)).returns irCaps captureBits ∧ (irScanOne (.job 0)).addressed = some 0 ∧
      irCaps[(0 : Fin 16).val]? = some [true, false, false, false] :=
  ⟨(irScanOne_checks _).1, rfl, rfl⟩

/-- C1 SCANNING with this scan, and this job RUNNING in J0. -/
def scanned (x : Scan) (y : Job) : State :=
  phased (jobbed board 0 { y with status := .running }) 1 (.scanning x)

theorem witness_ScanCompletes :
    (scanned (irScanOne (.job 0)) (aJob 1 (.ir 0x22 1))).live = true ∧
      ((scanned (irScanOne (.job 0)) (aJob 1 (.ir 0x22 1))).chains[(1 : ChainId)]).phase =
        .scanning (irScanOne (.job 0)) ∧
      (irScanOne (.job 0)).returns irCaps captureBits ∧ (irScanOne (.job 0)).checks irCaps ∧
      (scanned (irScanOne (.job 0)) (aJob 1 (.ir 0x22 1))).named 0x22 = some (2, rec22) ∧ rec22.chain = 1 ∧
      ((scanned (irScanOne (.job 0)) (aJob 1 (.ir 0x22 1))).jobs[(0 : JobId)]).job =
        some { aJob 1 (.ir 0x22 1) with status := .running } ∧
      drScanOne.returns (drCaps 0x0E2D1033#32) (bits32 0x0E2D1033#32 ++ [true] ++ bits32 0x1A3B6045#32) ∧
      drScanOne.checks (drCaps 0x0E2D1033#32) ∧
      (scanned drScanOne (aJob 0 (.dr 0x23 [true]))).named 0x23 = some (3, rec23) ∧
      ((scanned drScanOne (aJob 0 (.dr 0x23 [true]))).jobs[(0 : JobId)]).job =
        some { aJob 0 (.dr 0x23 [true]) with status := .running } ∧
      (irScanOne (.park 0x22)).source = .park 0x22 ∧ (irScanOne (.park 0x22)).checks irCaps :=
  ⟨by decide +kernel, by decide +kernel, (irScanOne_checks _).1, (irScanOne_checks _).2, by decide +kernel, rfl,
    by decide +kernel, drScanOne_returns _, drScanOne_checks, by decide +kernel, by decide +kernel, rfl,
    (irScanOne_checks _).2⟩

theorem witness_ScanFaults :
    (scanned drScanOne (aJob 0 (.dr 0x23 [true]))).live = true ∧
      ((scanned drScanOne (aJob 0 (.dr 0x23 [true]))).chains[(1 : ChainId)]).phase = .scanning drScanOne ∧
      drScanOne.kind ≠ .reset ∧
      drScanOne.returns (drCaps 0x1E2D1033#32) (bits32 0x1E2D1033#32 ++ [true] ++ bits32 0x1A3B6045#32) ∧
      ¬ drScanOne.checks (drCaps 0x1E2D1033#32) :=
  ⟨by decide +kernel, by decide +kernel, by decide, drScanOne_returns _, drScanOne_fails⟩

theorem witness_TestResetsComplete :
    let s := scanned (board.resetScan 1 0 5) (aJob 1 .chainReset)
    s.live = true ∧ (s.chains[(1 : ChainId)]).phase = .scanning (board.resetScan 1 0 5) ∧
      (board.resetScan 1 0 5).kind = .reset ∧ (board.resetScan 1 0 5).source = .job 0 ∧
      ((phased board 1 (.resetting .returning)).chains[(1 : ChainId)]).phase = .resetting .returning ∧
      (board.chains[(0 : ChainId)]).phase ≠ .resetting .returning := by
  decide +kernel

theorem witness_PowerOnValues : State.reset.power = .internalReset := by decide

theorem witness_WarmReset : board.live = true := by decide

theorem witness_ResetIsReleased :
    State.reset.live = false ∧ (next .resetNAssert board).live = false ∧
      (next .resetNAssert board).power = .operating ∧ (next .resetNAssert board).resetLow = true ∧
      board.resetLow = false ∧ board.power = .operating := by
  decide +kernel

/-- Session 1's job J2 becomes DONE: a transition of JOB_DONE, on a link with push on (4.9 step 4). -/
theorem witness_NoticesFollowTransitions :
    let s := scanned (irScanOne (.job 0)) (aJob 1 (.ir 0x22 1))
    let t := next (.scanCompletion 1 captureBits) s
    s.isOpen 1 ∧ (t.sessions[(1 : SessionId)]).map Session.push = some true ∧ s.pends 1 .jobDone = false ∧
      t.pends 1 .jobDone = true ∧ (s.links[(1 : LinkId)]).queuedNotice = false ∧
      (t.links[(1 : LinkId)]).queuedNotice = true := by
  decide +kernel

theorem witness_NoticesFollowTransitions_next :
    exec (.scanCompletion 1 captureBits) (scanned (irScanOne (.job 0)) (aJob 1 (.ir 0x22 1))) =
      .next (next (.scanCompletion 1 captureBits) (scanned (irScanOne (.job 0)) (aJob 1 (.ir 0x22 1)))) :=
  exec_next (by decide +kernel)

/-- Session 0's DESCRIBE of 0024h, beside session 1's 0022h with its job in J2 and its line E2. -/
theorem witness_RequestsRespectOwners :
    let s := describing { queued with lines := filtered.lines } 0#8 1#8 (setEdit 1#8 9#8)
    exec (Request.row .describe 0) s = .next (next (.describe 0) s) ∧ (1 : LinkId) ≠ 0 ∧
      (s.jobs[(2 : JobId)]).job = some (aJob 1 (.dr 0x22 (List.replicate 16 false))) ∧
      (s.slots[(2 : SlotId)]).record = some rec22 ∧ rec22.state.owner = some 1 ∧
      (s.lines[(2 : LineId)]).binding = some (s.handleOf 2) :=
  ⟨exec_next (by decide +kernel), by decide, by decide +kernel, by decide +kernel, rfl, by decide +kernel⟩

/-- A link with a reply waiting and a pending format, and the others at rest. -/
theorem witness_LinksKeepTheirLaws :
    replying.linksLaw ∧ step { replying with pending := [.replyStart 0] } =
      .next { next (.replyStart 0) replying with pending := [] } := by
  refine ⟨fun l => ?_, ?_⟩
  · by_cases hl : l = 0
    · subst hl
      have h : (replying.links[(0 : LinkId)]).slot = .taken ∧
          (replying.links[(0 : LinkId)]).waiting.isSome = true ∧ (replying.links[(0 : LinkId)]).tx = .idle ∧
          (replying.links[(0 : LinkId)]).assembler = .hunt ∧ (replying.links[(0 : LinkId)]).gap = .stopped := by
        decide +kernel
      obtain ⟨h1, h2, h3, h4, h5⟩ := h
      refine ⟨?_, fun _ => h1, ?_⟩
      · unfold Hlu.replyLaw
        simp only [h1, h2, h3]
        simp
      · unfold Hlu.assemblyLaw Hlu.timerLaw
        simp only [h4, h5]
        simp
    · have h : ∀ l : LinkId, l ≠ 0 → replying.links[l] = Hlu.powerOn 120 := by decide +kernel
      rw [h l hl]
      simp [Hlu.replyLaw, Hlu.pendingLaw, Hlu.assemblyLaw, Hlu.timerLaw, Hlu.powerOn]
  · rfl

/-- No slot of the worked board breaks a law that is about each record alone. -/
theorem board_records (i : SlotId) (r : TargetRecord) (h : (board.slots[i]).record = some r) :
    r.chain = 1 ∧ r.resident ≠ .unknown ∧ (r.state = .claimed 0 ∨ r.state = .claimed 1 ∨ r.state = .available) := by
  have h1 : ∀ i : SlotId, ∀ r : TargetRecord, r ∈ (board.slots[i]).record → r.chain = 1 ∧ r.resident ≠ .unknown ∧
      (r.state = .claimed 0 ∨ r.state = .claimed 1 ∨ r.state = .available) := by decide +kernel
  exact h1 i r h

theorem witness_TablesKeepTheirLaws : board.tablesLaw := by
  have hc : (board.chains[(1 : ChainId)]).phase = .ready := by decide +kernel
  have hp1 : ∀ c : ChainId, (board.chains[c]).phase = .resetting .enumerate ∨ (board.chains[c]).phase = .ready ∨
      (board.chains[c]).phase = .fault .tooMany ∨ (board.chains[c]).phase = .disabled := by decide +kernel
  have hq : ∀ c : ChainId, (board.chains[c]).queue = [] ∧ (board.chains[c]).parks = [] := by decide +kernel
  have hj : ∀ j : JobId, (board.jobs[j]).job = none := by decide +kernel
  refine ⟨?_, fun i r h => ?_, by decide +kernel, ⟨fun i r l h ho => ?_, fun j x l h => ?_⟩, ?_, fun c => ?_, ⟨fun c j => ?_, fun c _ => ?_⟩,
    ⟨fun c x j hp => ?_, fun j y h => ?_⟩, ⟨fun j x h => ?_, fun j x t h => ?_⟩, fun c => ⟨?_, ?_, fun x t hp => ?_⟩,
    ?_, fun _ => by decide +kernel⟩
  · unfold State.generationsInRange
    decide +kernel
  · obtain ⟨h1, h2, h3⟩ := board_records i r h
    have hp : (board.chains[r.chain]).phase = .ready := by
      simp only [h1]
      exact hc
    rw [hp]
    rcases h3 with h3 | h3 | h3 <;>
      simp [h3, h2, ChainPhase.mayHaveRecords, ChainPhase.isFault, RecordState.isSuspect]
  · have h1 : ∀ l : SessionId, l = 0 ∨ l = 1 → (board.sessions[l]).isSome = true := by decide +kernel
    rcases (board_records i r h).2.2 with h3 | h3 | h3 <;> rw [h3] at ho <;> cases ho
    · exact h1 0 (Or.inl rfl)
    · exact h1 1 (Or.inr rfl)
  · rw [hj j] at h
    cases h
  · unfold State.jobsLimited
    decide +kernel
  · rcases hp1 c with h | h | h | h <;> rw [h] <;> trivial
  · rw [(hq c).1, hj j]
    simp
  · exact hq c
  · rcases hp1 c with h | h | h | h <;> rw [h] at hp <;> cases hp
  · rw [hj j] at h
    cases h
  · rw [hj j] at h
    cases h
  · rw [hj j] at h
    cases h
  · rw [(hq c).2]
    exact List.nodup_nil
  · rw [(hq c).2]
    exact fun h hm => (List.not_mem_nil hm).elim
  · rcases hp1 c with h | h | h | h <;> rw [h] at hp <;> cases hp
  · have h1 : ∀ e : LineId, board.lines[e] = EventLine.powerOn := by decide +kernel
    refine ⟨fun e h he => ?_, fun e k h he => ?_, fun e _ => ?_⟩
    · rw [h1 e] at he
      cases he
    · rw [h1 e] at he
      cases he
    · rw [h1 e]
      exact ⟨rfl, rfl, rfl⟩

end Sys2Proof.Tests
end

section
/-! PROOFS. The directory requests that only report: LIST (R20, R21), LOOKUP (R22) and FIND (R23). -/

namespace Sys2Proof.Machine

/-! ### LIST -/

/-- An acknowledged chain takes an element out of one changed set, so no kind starts to pend. -/
theorem quieter_acknowledged {s : State} {l : SessionId} {y : Session} (hy : s.sessions[l] = some y) (c : ChainId) :
    (s.setSession l (some { y with changed := chainErase y.changed c })).quieter s := by
  refine quieter_of rfl rfl rfl (fun _ h => h) fun k x z hx hz hne => ?_
  simp only [Fin.getElem_fin] at hx hy hz
  rw [State.setSession_getElem] at hz
  split at hz
  case isTrue hk =>
    subst hk
    cases hz
    cases hy.symm.trans hx
    exact chainErase_ne _ _ hne
  case isFalse =>
    cases hx.symm.trans hz
    exact hne

theorem runList_of_chainOf {s : State} {l : LinkId} {b : Byte} {c : ChainId} {y : Session}
    (hc : chainOf b = some c) (hp : (s.chains[c]).phase ≠ .disabled) (hy : s.sessions[l] = some y) :
    runList l [b] s =
      ⟨.ok, s.listPayload c, s.setSession l (some { y with changed := chainErase y.changed c }), none, false⟩ := by
  simp only [runList, oneByte, Option.bind_some, hc, hp, if_false, hy, Option.map_some, State.answerOk]

theorem runList_of_disabled {s : State} {l : LinkId} {b : Byte} {c : ChainId}
    (hc : chainOf b = some c) (hp : (s.chains[c]).phase = .disabled) :
    runList l [b] s = s.refuse .chainDisabled := by
  simp only [runList, oneByte, Option.bind_some, hc, hp, if_true]

theorem runList_of_chainOf_none {s : State} {l : LinkId} {b : Byte} (hc : chainOf b = none) :
    runList l [b] s = s.refuse .badRequest := by
  simp only [runList, oneByte, Option.bind_some, hc]

/-- One LIST entry, byte by byte (10.4.2). -/
theorem State.listEntry_eq (s : State) (ir : SlotId × TargetRecord) :
    s.listEntry ir =
      [BitVec.ofNat 8 (s.handleOf ir.1 / 256), BitVec.ofNat 8 (s.handleOf ir.1), ir.2.state.byte,
        match ir.2.state.owner with
        | some o => BitVec.ofNat 8 o.val
        | none => 0xFF#8,
        (if ir.2.irLength.isSome then 1#8 else 0#8) ||| (if ir.2.identity.isSome then 2#8 else 0#8)] := by
  simp only [State.listEntry, u16, flag_or, List.cons_append, List.nil_append]
  cases ir.2.state.owner <;> rfl

/-- The LIST payload: the six bytes of the summary, then the entries (10.4.2). -/
theorem State.listPayload_eq (s : State) (c : ChainId) :
    s.listPayload c =
      [(s.chains[c]).phase.byte, (s.chains[c]).phase.causeByte, if (s.chains[c]).profileConflict then 1#8 else 0#8,
          BitVec.ofNat 8 ((s.chains[c]).totalIr / 256), BitVec.ofNat 8 (s.chains[c]).totalIr,
          BitVec.ofNat 8 (s.chainRecords c).length] ++
        (s.chainRecords c).flatMap s.listEntry := rfl

/-- Settles O12: the chain number decides between refusal and answer, and an OK empties the chain out of the caller's
changed set, which makes no kind pending. -/
theorem listReportsAndAcknowledges : Obligations.ListReportsAndAcknowledges := by
  intro s l seq b y h hy
  have ho : s.isOpen l := isOpen_of hy
  refine ⟨fun hb => ?_, fun c hb hp => ?_, fun c hb hp => ?_⟩
  · exact answer_unchanged (q := .list) h rfl (.inl ho) (runList_of_chainOf_none (chainOf_none hb))
  · exact answer_unchanged (q := .list) h rfl (.inl ho) (runList_of_disabled (chainOf_of hb) hp)
  · refine ⟨chainErase y.changed c, chainErase_getLsbD y.changed c, ?_⟩
    have he := serve_quiet (q := .list) h rfl (.inl ho) (runList_of_chainOf (chainOf_of hb) hp hy)
      (quieter_acknowledged hy c)
    rw [State.listPayload_eq, funext s.listEntry_eq] at he
    exact congrArg Host.Outcome.next he

/-! ### LOOKUP -/

/-- The catalogue entries at indices 1 to 7, each as LOOKUP reports it. -/
theorem catalogue_flatMap (r : TargetRecord) (f : Fin 8 × CatEntry → List Byte) :
    r.catalogue.flatMap f =
      f (0, r.bypass) ++ (List.finRange 7).flatMap fun k =>
        match r.entries[k] with
        | some e => f (k.succ, e)
        | none => [] := by
  rw [catalogue_eq, List.flatMap_cons, List.filterMap_eq_flatMap_toList, List.flatMap_assoc]
  refine congrArg (f (0, r.bypass) ++ ·) (List.flatMap_congr fun k _ => ?_)
  cases r.entries[k] <;> simp

theorem catalogue_length (r : TargetRecord) :
    r.catalogue.length = 1 + ((List.finRange 7).filter fun k => (r.entries[k]).isSome).length := by
  rw [catalogue_eq, List.length_cons, List.length_filterMap_eq_countP, List.countP_eq_length_filter, Nat.add_comm]
  simp only [Option.isSome_map]

theorem bypass_eq (r : TargetRecord) :
    r.bypass = ⟨match r.irLength with
      | some n => BitVec.ofNat 32 (2 ^ n - 1)
      | none => 0#32, 1, .inert⟩ := by
  rw [TargetRecord.bypass]
  cases r.irLength <;> rfl

theorem runLookup_of_named {s : State} {hi lo : Byte} {i : SlotId} {r : TargetRecord}
    (hn : s.named (hi.toNat * 256 + lo.toNat) = some (i, r)) :
    runLookup [hi, lo] s = s.answerOk (s.recordBytes i r) := by
  simp only [runLookup, handleParam, readU16_def, Option.bind_some, hn]

theorem runLookup_of_named_none {s : State} {hi lo : Byte} (hn : s.named (hi.toNat * 256 + lo.toNat) = none) :
    runLookup [hi, lo] s = s.refuse .badHandle := by
  simp only [runLookup, handleParam, readU16_def, Option.bind_some, hn]

/-- The record flags of Table 10-7: identity present, shape known, bound to a line, change flag set. -/
def State.recordFlags (s : State) (i : SlotId) (r : TargetRecord) : Byte :=
  (if r.identity.isSome then 1#8 else 0#8) ||| (if r.irLength.isSome then 2#8 else 0#8) |||
    match s.lineOf (s.handleOf i) with
    | some e => 4#8 ||| (if (s.lines[e]).flag then 8#8 else 0#8)
    | none => 0#8

/-- The byte of the line a record is bound to, FFh for none (Table 10-7). -/
def State.lineByte (s : State) (i : SlotId) : Byte :=
  match s.lineOf (s.handleOf i) with
  | some e => u8 e.val
  | none => 0xFF#8

theorem State.recordBytes_eq (s : State) (i : SlotId) (r : TargetRecord) :
    s.recordBytes i r =
      u16 (s.handleOf i) ++
        [u8 r.chain.val, u8 r.position.val, r.state.byte, ownerByte r.state.owner, s.recordFlags i r] ++
        u32 (r.identity.getD 0#32) ++
        [u8 (r.irLength.getD 0), r.shape.byte, r.resident.byte, s.lineByte i, u8 r.catalogue.length] ++
        r.catalogue.flatMap fun ix => u8 ix.1.val :: ix.2.bytes :=
  congrArg
    (fun flags =>
      u16 (s.handleOf i) ++ [u8 r.chain.val, u8 r.position.val, r.state.byte, ownerByte r.state.owner, flags] ++
        u32 (r.identity.getD 0#32) ++
        [u8 (r.irLength.getD 0), r.shape.byte, r.resident.byte, s.lineByte i, u8 r.catalogue.length] ++
        r.catalogue.flatMap fun ix => u8 ix.1.val :: ix.2.bytes)
    (flags4 r.identity.isSome r.irLength.isSome (s.lineOf (s.handleOf i)) fun e => (s.lines[e]).flag)

/-- The handle bytes of a record encoding are those of the request that names the record (R3). -/
theorem u16_handleOf_of_named {s : State} {hi lo : Byte} {i : SlotId} {r : TargetRecord}
    (hn : s.named (hi.toNat * 256 + lo.toNat) = some (i, r)) : u16 (s.handleOf i) = [hi, lo] := by
  rw [← (State.named_eq_some.mp hn).2, bytes_of_pair]

/-- Settles O13: the record encoding field by field, its catalogue as entry 0 and the present places 1 to 7. -/
theorem lookupReportsRecord : Obligations.LookupReportsRecord := by
  intro s l seq hi lo h ho
  refine ⟨fun hn => ?_, fun i r hn => ?_⟩
  · exact answer_unchanged (q := .lookup) h rfl (.inl ho) (runLookup_of_named_none hn)
  · have he := answer_unchanged (q := .lookup) h rfl (.inl ho) (runLookup_of_named hn)
    rw [State.recordBytes_eq, u16_handleOf_of_named hn, catalogue_length, catalogue_flatMap, bypass_eq] at he
    exact he

/-! ### FIND -/

theorem State.findHandles_eq (s : State) (value mask : Word32) :
    s.findHandles value mask =
      (s.directory.filter fun (_, r) =>
        match r.identity with
        | some code => decide (code &&& mask = value &&& mask)
        | none => false).map fun ir => s.handleOf ir.1 := rfl

/-- Settles O14: FIND's list is the directory filtered, and the directory is the chains' lists one after another, each
sound, complete up to the place, and ascending. -/
theorem findReportsMatches : Obligations.FindReportsMatches := by
  refine ⟨fun s l seq v3 v2 v1 v0 m3 m2 m1 m0 h ho => ?_, fun s =>
    ⟨fun i r hm => ?_, fun i r hr => ?_, s.directory_pairwise⟩⟩
  · refine answer_unchanged (q := .find) h rfl (.inl ho) ?_
    simp only [runFind, State.answerOk, State.findHandles_eq, List.length_map, List.flatMap_map]
    rfl
  · exact (State.chainRecords_sound (State.mem_directory.mp hm)).1
  · obtain ⟨j, q, hm, hc, hp⟩ := State.chainRecords_complete hr
    exact ⟨j, q, State.mem_directory.mpr (hc ▸ hm), hc, hp⟩

end Sys2Proof.Machine
end

section
/-! PROOFS. The chain fault that a failed echo check declares (R19, R92, R114, R117, R118). -/

namespace Sys2Proof.Machine

/-! ### The bits a scan returns (R104, R108) -/

/-- Cutting undoes joining: the segments of the given lengths are found again. -/
theorem cutBits_flatten (segs : List (List Bool)) : cutBits (segs.map List.length) segs.flatten = segs := by
  induction segs with
  | nil => rfl
  | cons b rest ih =>
    simp only [List.map_cons, List.flatten_cons, cutBits, List.take_left, List.drop_left, ih]

theorem Scan.returns_flatten {x : Scan} {caps : List (List Bool)} {tdi : List Bool} (h : x.returns caps tdi) :
    tdi = caps.reverse.flatten := by
  obtain ⟨_, htdi, _⟩ := h
  exact htdi

/-- The captured segments have the lengths of the segments shifted out. -/
theorem Scan.returns_lengths {x : Scan} {caps : List (List Bool)} {tdi : List Bool} (h : x.returns caps tdi) :
    caps.map List.length = x.lengths := by
  obtain ⟨hlen, _, hseg⟩ := h
  refine List.ext_getElem (by simp [Scan.lengths, hlen]) fun p hp hq => ?_
  rw [List.length_map] at hp
  have hx : p < x.segments.length := hlen ▸ hp
  simpa [Scan.lengths] using
    hseg p _ _ (List.getElem?_eq_getElem hx) (List.getElem?_eq_getElem hp)

/-- The bits returned are as many as the scan's total length. -/
theorem Scan.returns_total {x : Scan} {caps : List (List Bool)} {tdi : List Bool} (h : x.returns caps tdi) :
    tdi.length = x.total := by
  rw [Scan.returns_flatten h, List.length_flatten, List.map_reverse, List.sum_reverse, Scan.returns_lengths h,
    Scan.total]

/-- The captured segments of a clocked scan are those that make up its returned bits. -/
theorem Scan.captured_clock {x : Scan} {caps : List (List Bool)} {tdi : List Bool} (h : x.returns caps tdi) :
    (x.clock tdi).captured = caps := by
  have hl : (x.clock tdi).lengths.reverse = caps.reverse.map List.length := by
    rw [List.map_reverse, Scan.returns_lengths h]; rfl
  have ht : (x.clock tdi).returned = caps.reverse.flatten := Scan.returns_flatten h
  rw [Scan.captured, hl, ht, cutBits_flatten, List.reverse_reverse]

theorem signatureOk_iff (bits : List Bool) :
    signatureOk bits = true ↔ bits[0]? = some true ∧ bits[1]? = some false := by
  match bits with
  | [] => simp [signatureOk]
  | [a] => simp [signatureOk]
  | a :: b :: rest => cases a <;> cases b <;> simp [signatureOk]

theorem Expectation.met_iff (e : Expectation) (bits : List Bool) : e.met bits = true ↔ e.satisfied bits := by
  cases e with
  | nothing => simp [Expectation.met, Expectation.satisfied]
  | signature => exact signatureOk_iff bits
  | exactly b => simp [Expectation.met, Expectation.satisfied]

/-- The echo check passes exactly when every captured segment meets its expectation (R110, R111). -/
theorem Scan.echoPasses_clock {x : Scan} {caps : List (List Bool)} {tdi : List Bool} (h : x.returns caps tdi) :
    (x.clock tdi).echoPasses = true ↔ x.checks caps := by
  rw [Scan.echoPasses, Scan.captured_clock h, List.all_eq_true]
  constructor
  · intro hall p g b hg hb
    exact (Expectation.met_iff _ _).mp (hall (g, b) (List.mem_of_getElem? (List.getElem?_zip_eq_some.mpr ⟨hg, hb⟩)))
  · rintro hc ⟨g, b⟩ hm
    obtain ⟨p, hp⟩ := List.mem_iff_getElem?.mp hm
    obtain ⟨hg, hb⟩ := List.getElem?_zip_eq_some.mp hp
    exact (Expectation.met_iff _ _).mpr (hc p g b hg hb)

/-! ### The chain fault -/

theorem JobSlot.finished_eq_ended (o : JobOutcome) (data : List Bool) (a : JobSlot) :
    a.finished o data = a.ended o data := by
  unfold JobSlot.finished JobSlot.ended
  cases a.job with
  | none => rfl
  | some y =>
    cases hs : y.session with
    | none =>
      simp only [hs, Option.isSome_none, Bool.false_eq_true, if_false, if_true]
      rfl
    | some l => simp only [hs, Option.isSome_some, if_true, reduceCtorEq, if_false]

theorem State.anyRecord_eq_true {s : State} {p : SlotId → TargetRecord → Bool} :
    s.anyRecord p = true ↔ ∃ (i : SlotId) (r : TargetRecord), (s.slots[i]).record = some r ∧ p i r = true := by
  simp only [State.anyRecord, List.any_eq_true, List.mem_finRange, true_and]
  refine exists_congr fun i => ?_
  cases h : (s.slots[i]).record <;> simp

/-- Owning on a chain, said by slots and records (R145). -/
theorem State.ownsOn_eq_true {s : State} {l : SessionId} {c : ChainId} :
    s.ownsOn l c = true ↔
      ∃ (i : SlotId) (r : TargetRecord), (s.slots[i]).record = some r ∧ r.chain = c ∧ r.state.owner = some l := by
  simp only [State.ownsOn, State.anyRecord_eq_true, Bool.and_eq_true, decide_eq_true_eq, TargetRecord.ownedBy]

/-- Rewriting records with their chains and owners kept changes nobody's ownership. -/
theorem State.ownsOn_mapRecords (s : State) (f : SlotId → TargetRecord → TargetRecord)
    (hf : ∀ i r, (f i r).chain = r.chain ∧ (f i r).state.owner = r.state.owner) (l : SessionId) (c : ChainId) :
    (s.mapRecords f).ownsOn l c = s.ownsOn l c := by
  rw [Bool.eq_iff_iff, State.ownsOn_eq_true, State.ownsOn_eq_true]
  refine exists_congr fun i => ?_
  simp only [Fin.getElem_fin, State.mapRecords_getElem, Option.map_eq_some_iff]
  constructor
  · rintro ⟨_, ⟨q, hq, rfl⟩, hc, ho⟩
    exact ⟨q, hq, (hf i q).1 ▸ hc, (hf i q).2 ▸ ho⟩
  · rintro ⟨q, hq, hc, ho⟩
    exact ⟨f i q, ⟨q, hq, rfl⟩, (hf i q).1.trans hc, (hf i q).2.trans ho⟩

/-- A fault keeps the owners of the chain's records, so it tells the sessions that owned one before it (R19, R118). -/
theorem State.ownsOn_suspectRecords (s : State) (l : SessionId) (c d : ChainId) :
    (s.suspectRecords c).ownsOn l d = s.ownsOn l d := by
  refine s.ownsOn_mapRecords _ (fun i r => ?_) l d
  split <;> exact ⟨rfl, rfl⟩

theorem State.ownsOn_congr {s t : State} (h : t.slots = s.slots) (l : SessionId) (c : ChainId) :
    t.ownsOn l c = s.ownsOn l c := by
  simp only [State.ownsOn, State.anyRecord, h]

/-- An OPEN session is a party to a chain when it watches the chain or owns a record of it (R145). -/
theorem State.party_of_open {s : State} {l : SessionId} {x : Session} (hx : s.sessions[l] = some x) (c : ChainId) :
    s.party c l = (chainMember x.watch c || s.ownsOn l c) := by
  have howns : s.party c l = ((x.watch.getLsbD c.val) ||
      s.anyRecord fun _ r => decide (r.chain = c ∧ r.state.owner = some l)) := by
    simp only [State.party, hx]
    rfl
  rw [howns]
  simp only [Bool.decide_and]
  rfl

/-- Telling the parties of a chain, in a state with the sessions of `s` and its owners on the chain. -/
theorem State.tellParties_sessions_eq {s t : State} {c : ChainId} (hx : t.sessions = s.sessions)
    (ho : ∀ l, t.ownsOn l c = s.ownsOn l c) : (t.tellParties c).sessions = s.told c (s.party c) := by
  refine vector_ext fun l => ?_
  rw [State.tellParties_getElem, hx, ho, State.told, Vector.getElem_ofFn]
  refine Option.map_congr fun x h => ?_
  rw [State.party_of_open (Option.mem_def.mp h)]
  rfl

/-- The whole state after a chain fault (R19, R92, R117, R118). -/
theorem State.declareFault_eq (s : State) (c : ChainId) :
    s.declareFault c =
      { s with
        jobs := Vector.ofFn fun j : JobId =>
          if j ∈ (s.chains[c]).queue then (s.jobs[j]).ended .chainFault [] else s.jobs[j]
        slots := Vector.ofFn fun k : SlotId => ⟨(s.slots[k]).generation, (s.slots[k]).record.map fun q =>
          if q.chain = c then { q with state := .suspect q.state.owner, resident := .unknown } else q⟩
        chains := s.chains.set c
          { s.chains[c] with phase := .fault .check, op := none, queue := [], parks := [] }
        sessions := s.told c (s.party c) } := by
  refine state_ext (by simp) (by simp) (by simp) (by simp) (by simp) ?sessions ?slots (by simp) ?jobs ?chains (by simp)
    (by simp)
  case sessions =>
    refine State.tellParties_sessions_eq (by simp) fun l => ?_
    exact (State.ownsOn_congr (State.updChain_slots _ _ _) l c).trans
      ((State.ownsOn_suspectRecords _ l c c).trans (State.ownsOn_congr (State.failQueue_slots _ _) l c))
  case slots =>
    refine vector_ext fun k => ?_
    simp [State.declareFault]
  case jobs =>
    refine vector_ext fun j => ?_
    simp [State.declareFault, JobSlot.finished_eq_ended]
  case chains =>
    refine vector_ext fun k => ?_
    by_cases hk : k = c <;> simp [State.declareFault, set_getElem, hk]

theorem execScanCompletion_of_fault {s : State} {c : ChainId} {x : Scan} {tdi : List Bool} (hl : s.live = true)
    (hp : (s.chains[c]).phase = .scanning x) (hk : x.kind ≠ .reset) (ht : tdi.length = x.total)
    (he : (x.clock tdi).echoPasses = false) :
    execScanCompletion c tdi s = .next (settle s (s.declareFault c)) := by
  simp only [execScanCompletion, hp, hl, hk, ht, he, ne_eq, not_false_eq_true, decide_true, Bool.and_self, if_true,
    Bool.false_eq_true, if_false]

/-- Settles O51: the bits returned are the T samples of SHIFT, and a segment off its expectation fails the echo check
over all of them, so the chain fault is declared. -/
theorem scanFaults : Obligations.ScanFaults := by
  intro s c x caps tdi hl hp hk hr hc
  rw [← State.declareFault_eq]
  exact execScanCompletion_of_fault hl hp hk (Scan.returns_total hr)
    (Bool.eq_false_iff.mpr (mt (Scan.echoPasses_clock hr).mp hc))

end Sys2Proof.Machine
end

section
/-! PROOFS. Chain discovery's capture-pattern check (R40), CHAIN-CONFIG (R49, R50), PROFILE-DROP (R54) and
PROFILE-READ (R55). -/

namespace Sys2Proof.Machine

/-! ### The capture-pattern check -/

/-- Cutting by a list of lengths and one more: the last segment starts where the others end. -/
theorem cutBits_concat (ls : List Nat) (n : Nat) (bits : List Bool) :
    cutBits (ls ++ [n]) bits = cutBits ls bits ++ [(bits.drop ls.sum).take n] := by
  induction ls generalizing bits with
  | nil => rfl
  | cons m ls ih => simp only [List.cons_append, cutBits, ih, List.drop_drop, List.sum_cons]

/-- The bits from index `k` on read 1, 0. -/
def signatureAt (pattern : List Bool) (k : Nat) : Prop :=
  pattern[k]? = some true ∧ pattern[k + 1]? = some false

/-- A segment of two bits or more shows its signature in the pattern itself. -/
theorem signatureOk_segment {n : Nat} (hn : 2 ≤ n) (pattern : List Bool) (k : Nat) :
    signatureOk ((pattern.drop k).take n) = true ↔ signatureAt pattern k := by
  have h0 : 0 < n := by omega
  have h1 : 1 < n := by omega
  simp only [signatureOk_iff, signatureAt, List.getElem?_take_of_lt h0, List.getElem?_take_of_lt h1,
    List.getElem?_drop, Nat.add_zero]

/-- The segments are cut from the highest position down, so the segment of position `p` starts after those of the
positions above it (R40). -/
theorem cutBits_signatures (pattern : List Bool) {lengths : List Nat} (h2 : ∀ n ∈ lengths, 2 ≤ n) :
    (cutBits lengths.reverse pattern).all signatureOk = true ↔
      ∀ p, p < lengths.length → signatureAt pattern (lengths.drop (p + 1)).sum := by
  induction lengths with
  | nil => simp [cutBits]
  | cons n rest ih =>
    obtain ⟨hn, hrest⟩ := List.forall_mem_cons.mp h2
    rw [List.reverse_cons, cutBits_concat, List.all_append, Bool.and_eq_true, ih hrest, List.sum_reverse,
      List.all_cons, List.all_nil, Bool.and_true, signatureOk_segment hn, and_comm, List.length_cons,
      Nat.forall_lt_succ_left]
    rfl

/-- Settles O17, by induction on the lengths: position 0 is the last segment to be cut. -/
theorem patternCheckCuts : Obligations.PatternCheckCuts := by
  intro total pattern lengths _ h2
  rw [patternOk, Bool.and_eq_true, decide_eq_true_eq, cutBits_signatures pattern h2]
  rfl

/-! ### CHAIN-CONFIG -/

theorem State.othersOwn_eq_true {s : State} {l : SessionId} {c : ChainId} :
    s.othersOwn l c = true ↔ s.ownedByOthers l c := by
  simp only [State.othersOwn, State.anyRecord_eq_true, State.ownedByOthers, TargetRecord.ownedBy]
  refine exists_congr fun i => exists_congr fun r => ?_
  cases r.state.owner <;> simp

theorem onOff_of_le_one {t : Byte} (h : t.toNat ≤ 1) : onOff t = some (decide (t = 1#8)) := by
  rcases onoff_some h with rfl | rfl <;> rfl

theorem onOff_of_one_lt {t : Byte} (h : 1 < t.toNat) : onOff t = none := by
  have h0 : t ≠ 0#8 := by rintro rfl; exact absurd h (by decide)
  have h1 : t ≠ 1#8 := by rintro rfl; exact absurd h (by decide)
  rw [onOff, if_neg h0, if_neg h1]

theorem settingsOf_good {d t : Byte} (hd : d ≠ 0#8) (ht : t.toNat ≤ 1) :
    settingsOf d t = some ⟨d.toNat, decide (t = 1#8)⟩ := by
  rw [settingsOf, if_neg hd, onOff_of_le_one ht, Option.map_some]

theorem settingsOf_bad {d t : Byte} (h : d = 0#8 ∨ 1 < t.toNat) : settingsOf d t = none := by
  rcases h with hd | ht
  · rw [settingsOf, if_pos hd]
  · rw [settingsOf, onOff_of_one_lt ht, Option.map_none, ite_self]

theorem runChainConfig_of_bad {l : LinkId} {b d t : Byte} (h : 3 < b.toNat ∨ d = 0#8 ∨ 1 < t.toNat) (s : State) :
    runChainConfig l [b, d, t] s = s.refuse .badRequest := by
  rcases h with hb | h
  · simp only [runChainConfig, chainOf_none hb]
  · simp only [runChainConfig, settingsOf_bad h]
    cases chainOf b <;> rfl

section
variable {s : State} {l : LinkId} {b d t : Byte} {c : ChainId} {x : TckSettings}
  (hc : chainOf b = some c) (hx : settingsOf d t = some x)
include hc hx

theorem runChainConfig_of_disabled (hp : (s.chains[c]).phase = .disabled) :
    runChainConfig l [b, d, t] s = s.refuse .chainDisabled := by
  simp only [runChainConfig, hc, hx, hp]

theorem runChainConfig_of_fault {k : FaultCause} (hp : (s.chains[c]).phase = .fault k) :
    runChainConfig l [b, d, t] s = s.refuse .chainFault := by
  simp only [runChainConfig, hc, hx, hp]

/-- In any state of the chain but DISABLED and FAULT, owners decide (R49). -/
theorem runChainConfig_of_configurable (hd : (s.chains[c]).phase ≠ .disabled)
    (hf : ∀ k, (s.chains[c]).phase ≠ .fault k) :
    runChainConfig l [b, d, t] s =
      if s.othersOwn l c then s.refuse .chainBusy
      else (s.updChain c fun y => { y with settings := x }).answerOk [] := by
  cases hp : (s.chains[c]).phase with
  | disabled => exact absurd hp hd
  | fault k => exact absurd hp (hf k)
  | _ => simp only [runChainConfig, hc, hx, hp]

end

/-- Settles O27: parameters, then the chain's phase, then the owners on the chain decide; new settings make no kind
pending. -/
theorem chainConfigReplacesSettings : Obligations.ChainConfigReplacesSettings := by
  intro s l seq b d t ho h
  refine ⟨fun hbad => ?_, fun c hb hd ht => ⟨fun hp => ?_, fun k hp => ?_, fun hnd hnf => ⟨fun hown => ?_,
    fun hown => ?_⟩⟩⟩
  · exact answer_unchanged (q := .chainConfig) h rfl (.inl ho) (runChainConfig_of_bad hbad s)
  · exact answer_unchanged (q := .chainConfig) h rfl (.inl ho)
      (runChainConfig_of_disabled (chainOf_of hb) (settingsOf_good hd ht) hp)
  · exact answer_unchanged (q := .chainConfig) h rfl (.inl ho)
      (runChainConfig_of_fault (chainOf_of hb) (settingsOf_good hd ht) hp)
  · have hrun := runChainConfig_of_configurable (l := l) (chainOf_of hb) (settingsOf_good hd ht) hnd hnf
    rw [if_pos (State.othersOwn_eq_true.mpr hown)] at hrun
    exact answer_unchanged (q := .chainConfig) h rfl (.inl ho) hrun
  · have hrun := runChainConfig_of_configurable (l := l) (chainOf_of hb) (settingsOf_good hd ht) hnd hnf
    rw [if_neg (mt State.othersOwn_eq_true.mp hown)] at hrun
    exact congrArg Host.Outcome.next
      (serve_quiet (q := .chainConfig) h rfl (.inl ho) hrun (quieter_same rfl rfl rfl rfl rfl))

/-! ### PROFILE-DROP and PROFILE-READ -/

theorem runProfileDrop_of_ge {s : State} {b : Byte} (hb : s.profiles.length ≤ b.toNat) :
    runProfileDrop [b] s = s.refuse .badEntry := by
  simp only [runProfileDrop, oneByte, Nat.not_lt.mpr hb, if_false]

theorem runProfileDrop_of_lt {s : State} {b : Byte} (hb : b.toNat < s.profiles.length) :
    runProfileDrop [b] s =
      State.answerOk { s with profiles := s.profiles.take b.toNat ++ s.profiles.drop (b.toNat + 1) } [] := by
  simp only [runProfileDrop, oneByte, hb, if_true, List.eraseIdx_eq_take_drop_succ]

theorem runProfileRead_of_ge {s : State} {b : Byte} (hb : s.profiles.length ≤ b.toNat) :
    runProfileRead [b] s = s.answerOk [u8 s.profiles.length] := by
  simp only [runProfileRead, oneByte, List.getElem?_eq_none hb]

theorem runProfileRead_of_getElem? {s : State} {b : Byte} {p : Profile} (hp : s.profiles[b.toNat]? = some p) :
    runProfileRead [b] s = s.answerOk (u8 s.profiles.length :: p.bytes) := by
  simp only [runProfileRead, oneByte, hp]

/-- Settles O29: the index against the number of entries decides, and a dropped profile makes no kind pending. -/
theorem profileDropAndRead : Obligations.ProfileDropAndRead := by
  intro s l seq b ho
  refine ⟨fun h => ⟨fun hb => ?_, fun hb => ?_⟩, fun h => ⟨fun hb => ?_, fun p hp => ?_⟩⟩
  · exact answer_unchanged (q := .profileDrop) h rfl (.inl ho) (runProfileDrop_of_ge hb)
  · exact congrArg Host.Outcome.next (serve_quiet (q := .profileDrop) h rfl (.inl ho) (runProfileDrop_of_lt hb)
      (quieter_same rfl rfl rfl rfl rfl))
  · exact answer_unchanged (q := .profileRead) h rfl (.inl ho) (runProfileRead_of_ge hb)
  · exact answer_unchanged (q := .profileRead) h rfl (.inl ho) (runProfileRead_of_getElem? hp)

end Sys2Proof.Machine
end

section
/-! PROOFS. The order of the bits on a chain: what a scan shifts out (R104) and how its returned bits are cut (R108). -/

namespace Sys2Proof.Machine

theorem Scan.outBits_length (x : Scan) : x.outBits.length = x.total := by
  rw [Scan.outBits, List.length_flatMap, List.map_reverse, List.sum_reverse, Scan.total, Scan.lengths]

/-- Before the segment of position `p` the segments of the higher positions are shifted out, after it those of the
lower ones (R104). -/
theorem Scan.outBits_split {x : Scan} {p : Nat} {g : Segment} (hg : x.segments[p]? = some g) :
    x.outBits = (x.segments.drop (p + 1)).reverse.flatMap Segment.out ++
      (g.out ++ (x.segments.take p).reverse.flatMap Segment.out) := by
  obtain ⟨hp, rfl⟩ := List.getElem?_eq_some_iff.mp hg
  have hsplit : x.segments = x.segments.take p ++ x.segments[p] :: x.segments.drop (p + 1) := by
    rw [← List.drop_eq_getElem_cons hp, List.take_append_drop]
  calc x.outBits
    _ = (x.segments.take p ++ x.segments[p] :: x.segments.drop (p + 1)).reverse.flatMap Segment.out :=
        congrArg (fun l : List Segment => l.reverse.flatMap Segment.out) hsplit
    _ = _ := by
        simp only [List.reverse_append, List.reverse_cons, List.flatMap_append, List.flatMap_singleton,
          List.append_assoc]

/-- Out bit offset(p) + k is bit `k` of the segment of position `p` (R104). -/
theorem Scan.outBits_getElem? {x : Scan} {p k : Nat} {g : Segment} (hg : x.segments[p]? = some g)
    (hk : k < g.out.length) :
    x.outBits[((x.segments.drop (p + 1)).map fun a => a.out.length).sum + k]? = g.out[k]? := by
  have hoffset : ((x.segments.drop (p + 1)).map fun a => a.out.length).sum =
      ((x.segments.drop (p + 1)).reverse.flatMap Segment.out).length := by
    rw [List.length_flatMap, List.map_reverse, List.sum_reverse]
  rw [Scan.outBits_split hg, hoffset, List.getElem?_append_right (Nat.le_add_right _ k), Nat.add_sub_cancel_left,
    List.getElem?_append_left hk]

/-- The result of a clocked scan is the captured segment of the addressed position (R108). -/
theorem Scan.result_clock {x : Scan} {caps : List (List Bool)} {tdi : List Bool} {p : Fin 16} {b : List Bool}
    (h : x.returns caps tdi) (hp : x.addressed = some p) (hb : caps[p.val]? = some b) :
    (x.clock tdi).result = b := by
  have haddr : (x.clock tdi).addressed = some p := hp
  simp only [Scan.result, haddr, Scan.captured_clock h, List.getD_eq_getElem?_getD, hb, Option.getD_some]

/-- Settles O49: the out bits split around the segment of each position, and the returned bits are cut at the same
offsets. -/
theorem scanBitsAreOrdered : Obligations.ScanBitsAreOrdered := by
  intro x
  refine ⟨fun _ _ _ hg hk => Scan.outBits_getElem? hg hk, x.outBits_length, fun _ _ h => ?_⟩
  exact ⟨Scan.returns_total h, Scan.captured_clock h, Scan.echoPasses_clock h,
    fun _ _ hp hb => Scan.result_clock h hp hb⟩

end Sys2Proof.Machine
end

section
/-! PROOFS. The session's answer to a retry (R138), OPEN (R133, R134) and PING (R136). -/

namespace Sys2Proof.Machine

/-! ### Retries -/

/-- Every request row is served by its link's session, whatever the owning block does. -/
theorem exec_row_eq_serve (q : Request) (s : State) (l : LinkId) :
    ∃ run, exec (q.row l) s = .next (s.serve l (some q) run) := by
  cases q <;> exact ⟨_, rfl⟩

theorem exec_rowOf_eq_serve (code : Byte) (s : State) (l : LinkId) :
    ∃ run, exec (rowOf code l) s = .next (s.serve l (Request.ofByte code) run) := by
  unfold rowOf
  cases Request.ofByte code with
  | some q => exact exec_row_eq_serve q s l
  | none => exact ⟨_, rfl⟩

theorem State.replayOf_of_stored {s : State} {l : SessionId} {x : Session} {y : StoredReply}
    (hx : s.sessions[l] = some x) (hy : x.stored = some y) : s.replayOf l y.seq = some y := by
  simp only [State.replayOf, hx, Option.bind_some, hy, if_true]

/-- A frame whose sequence number the replay store holds is answered from the store, without notices (R138). -/
theorem serve_retry {s : State} {l : LinkId} {code seq : Byte} {ps : List Byte} {y : StoredReply}
    (hl : s.live = true) (hs : (s.links[l]).slot = .untaken (code :: seq :: ps)) (hr : s.replayOf l seq = some y)
    (run : List Byte → State → Answer) :
    s.serve l (Request.ofByte code) run = s.handed l y.body y.format := by
  have hquiet : (s.handed l y.body y.format).quieter s := fun k q _ hp => by rwa [pends_handed] at hp
  simp only [State.serve, hs, hl, decide_true, Bool.and_self, if_true, State.handle, hr]
  exact settle_of_quieter hquiet

/-- Settles O2: every row is served by the session, which answers a retry before it looks at the command. -/
theorem retryIsAnsweredFromStore : Obligations.RetryIsAnsweredFromStore := by
  intro code seq ps s l x y hl hs hx hy hseq
  subst hseq
  obtain ⟨run, hexec⟩ := exec_rowOf_eq_serve code s l
  rw [hexec, serve_retry hl hs (State.replayOf_of_stored hx hy)]

/-! ### OPEN -/

section
variable {tag : List Byte} (hlen : tag.length ≤ 16)
include hlen

theorem toNat_tagLength : (BitVec.ofNat 8 tag.length).toNat = tag.length := by
  rw [BitVec.toNat_ofNat, Nat.mod_eq_of_lt (by omega)]

theorem openSession_fits (hpos : 1 ≤ tag.length) (period push watch : Byte) :
    Request.openSession.fits (BitVec.ofNat 8 tag.length :: (tag ++ [period, push, watch])) = true := by
  simp only [Request.fits, Request.paramLength, toNat_tagLength hlen, hpos, hlen, and_self, if_true,
    List.length_cons, List.length_append, List.length_nil, decide_eq_true_eq, Option.some.injEq]
  omega

theorem runOpen_of_bad {period push watch : Byte} (hbad : 1 < push.toNat ∨ 15 < watch.toNat) (l : LinkId)
    (s : State) :
    runOpen l (BitVec.ofNat 8 tag.length :: (tag ++ [period, push, watch])) s = s.refuse .badRequest := by
  simp only [runOpen, toNat_tagLength hlen, List.drop_left]
  by_cases hp : 1 < push.toNat
  · simp only [onOff_of_one_lt hp]
  · have hw : 16 ≤ watch.toNat := hbad.resolve_left hp
    simp only [onOff_of_le_one (Nat.not_lt.mp hp), hw, if_true]

section
variable {push watch : Byte} (hp : push.toNat ≤ 1) (hw : watch.toNat ≤ 15)
include hp hw

theorem runOpen_of_open {s : State} {l : LinkId} (ho : s.isOpen l) (period : Byte) :
    runOpen l (BitVec.ofNat 8 tag.length :: (tag ++ [period, push, watch])) s = s.refuse .alreadyOpen := by
  simp only [runOpen, toNat_tagLength hlen, List.drop_left, onOff_of_le_one hp, Nat.not_le_of_lt (Nat.lt_succ_of_le hw),
    if_false, show (s.sessions[l]).isSome = true from ho, if_true]

theorem runOpen_of_closed {s : State} {l : LinkId} (hc : s.sessions[l] = none) (period : Byte) :
    runOpen l (BitVec.ofNat 8 tag.length :: (tag ++ [period, push, watch])) s =
      (s.setSession l (some (openedSession tag period.toNat (decide (push = 1#8)) (watch.setWidth 4)))).answerOk
        [u8 l.val] := by
  simp only [runOpen, toNat_tagLength hlen, List.drop_left, List.take_left, onOff_of_le_one hp,
    Nat.not_le_of_lt (Nat.lt_succ_of_le hw), if_false, hc, Option.isSome_none, Bool.false_eq_true]

end

end

/-- The keepalive timer runs unless the period byte is 0 (R133). -/
theorem openedSession_eq (tag : List Byte) (period : Byte) (push : Bool) (watch : BitVec 4) :
    openedSession tag period.toNat push watch =
      { tag := tag, period := period.toNat, timer := if period = 0#8 then none else some 0,
        push := push, watch := watch, changed := 0#4, stored := none } := by
  have hzero : period.toNat = 0 ↔ period = 0#8 := BitVec.toNat_inj (y := 0#8)
  simp only [openedSession, hzero]

/-- Opening a CLOSED session makes no kind pend anew for a session that was OPEN. -/
theorem quieter_opened {s : State} {l : SessionId} (hc : s.sessions[l] = none) (x : Session) :
    (s.setSession l (some x)).quieter s := by
  refine quieter_of rfl rfl rfl (fun _ h => h) fun k y z hy hz hne => ?_
  simp only [Fin.getElem_fin] at hc hy hz
  rw [State.setSession_getElem] at hz
  split at hz
  case isTrue hk =>
    subst hk
    cases hc.symm.trans hy
  case isFalse =>
    cases hy.symm.trans hz
    exact hne

/-- Settles O6: the parameters decide first, then the session; a newly opened session has no notice of its own to
queue. -/
theorem openOpensSession : Obligations.OpenOpensSession := by
  intro s l seq period push watch tag hpos hlen h
  have hfits := openSession_fits hlen hpos period push watch
  refine ⟨fun hbad => ?_, fun hp hw => ⟨fun ho => ?_, fun hc => ?_⟩⟩
  · exact answer_unchanged (q := .openSession) h hfits (.inr rfl) (runOpen_of_bad hlen hbad l s)
  · exact answer_unchanged (q := .openSession) h hfits (.inr rfl) (runOpen_of_open hlen hp hw ho period)
  · have hserve := serve_quiet (q := .openSession) h hfits (.inr rfl) (runOpen_of_closed hlen hp hw hc period)
      (quieter_opened hc _)
    rw [openedSession_eq] at hserve
    exact congrArg Host.Outcome.next hserve

/-! ### PING -/

/-- The PING payload: the part's four bytes, then the chains, then the sessions (10.4.1). -/
theorem State.pingPayload_eq (s : State) (l : LinkId) :
    s.pingPayload l =
      [0x04#8, 0x20#8, 0x01#8, BitVec.ofNat 8 l.val] ++
        [(s.chains[0]).phase.byte, (s.chains[1]).phase.byte, (s.chains[2]).phase.byte, (s.chains[3]).phase.byte] ++
        ([0, 1, 2, 3] : List SessionId).flatMap fun k => pingEntry s.sessions[k] := rfl

/-- Settles O7: PING needs no session and changes nothing, and its payload is that of 10.4.1 entry by entry. -/
theorem pingReports : Obligations.PingReports := by
  intro s l seq h
  have hanswer := answer_unchanged (q := .ping) (run := runPing l) h rfl (.inr rfl) rfl
  rw [State.pingPayload_eq] at hanswer
  exact hanswer

end Sys2Proof.Machine
end

section
/-! PROOFS. LINK-STATUS (R175): the cause set reported, then emptied before the notice byte is built. -/

namespace Sys2Proof.Machine

/-- The state once the cause set of a link is emptied (R175). -/
def State.causesEmptied (s : State) (l : LinkId) : State :=
  s.updLink l fun x => { x with causes := 0#7 }

theorem State.causesEmptied_causes (s : State) (l k : LinkId) :
    ((s.causesEmptied l).links[k]).causes = if k = l then 0#7 else (s.links[k]).causes := by
  simp only [State.causesEmptied, Fin.getElem_fin, State.updLink_getElem]
  split <;> rfl

/-- LINK_FAULT stops pending for the link's own session, and no other kind looks at a cause set (R148). -/
theorem quieter_causesEmptied (s : State) (l : LinkId) : (s.causesEmptied l).quieter s := by
  refine quieter_of rfl rfl rfl (fun k hne => ?_) fun k x y hx hy hne => ?_
  · rw [State.causesEmptied_causes] at hne
    split at hne
    case isTrue => exact absurd rfl hne
    case isFalse => exact hne
  · cases hx.symm.trans hy
    exact hne

theorem runLinkStatus_eq (l : LinkId) (ps : List Byte) (s : State) :
    runLinkStatus l ps s =
      (s.causesEmptied l).answerOk
        ((s.links[l]).causes.setWidth 8 :: ((s.links[l]).format.bytes ++ u16 s.baseDivisor)) := rfl

/-- Settles O9: LINK-STATUS needs no session, and an emptied cause set makes no kind pending, so the reply built from
the emptied state is the whole effect. -/
theorem linkStatusEmptiesCauses : Obligations.LinkStatusEmptiesCauses := by
  intro s l seq h
  exact congrArg Host.Outcome.next (serve_quiet (q := .linkStatus) h rfl (.inr rfl) (runLinkStatus_eq l [] s)
    (quieter_causesEmptied s l))

end Sys2Proof.Machine
end

section
/-! PROOFS. The parameter lengths of Table 10-6 (R183), and BAD_REQUEST for every other length (R131 step 2). -/

namespace Sys2Proof.Machine

/-! ### Fixed lengths -/

theorem Request.fits_iff (r : Request) (ps : List Byte) :
    r.fits ps = true ↔ r.paramLength ps = some ps.length :=
  decide_eq_true_iff

/-- A layout that asks for the same length whatever the parameters are. -/
theorem Request.fits_iff_of_paramLength {r : Request} {ps : List Byte} {n : Nat} (h : r.paramLength ps = some n) :
    r.fits ps = true ↔ ps.length = n := by
  rw [Request.fits_iff, h, Option.some.injEq, eq_comm]

/-- The same for a group of requests of one length. -/
theorem Request.fits_iff_of_mem {rs : List Request} {ps : List Byte} {n : Nat}
    (h : rs.map (fun r => r.paramLength ps) = rs.map fun _ => some n) :
    ∀ r ∈ rs, (r.fits ps = true ↔ ps.length = n) := fun r hr =>
  Request.fits_iff_of_paramLength (List.map_inj_left.mp h r hr)

/-! ### Lengths computed from a leading parameter -/

theorem Request.paramLength_openSession_eq_some {ps : List Byte} {k : Nat} :
    Request.openSession.paramLength ps = some k ↔
      ∃ n rest, ps = n :: rest ∧ 1 ≤ n.toNat ∧ n.toNat ≤ 16 ∧ k = 4 + n.toNat := by
  cases ps with
  | nil => simp only [Request.paramLength, reduceCtorEq, false_and, exists_false]
  | cons n rest =>
    simp only [Request.paramLength, Option.ite_none_right_eq_some, Option.some.injEq, List.cons.injEq, and_assoc,
      exists_and_left, exists_eq_left', eq_comm (a := k)]

theorem Request.paramLength_describe_eq_some {ps : List Byte} {k : Nat} :
    Request.describe.paramLength ps = some k ↔
      ∃ hi lo len n rest, ps = hi :: lo :: len :: n :: rest ∧ n.toNat ≤ 7 ∧ k = 4 + 9 * n.toNat := by
  simp only [Request.paramLength]
  split
  case h_1 => simp [eq_comm (a := k)]
  case h_2 hshort =>
    refine iff_of_false nofun ?_
    rintro ⟨hi, lo, len, n, rest, hps, -⟩
    exact hshort hi lo len n rest hps

theorem Request.paramLength_scanDr_eq_some {ps : List Byte} {k : Nat} :
    Request.scanDr.paramLength ps = some k ↔
      ∃ hi lo b1 b0 rest, ps = hi :: lo :: b1 :: b0 :: rest ∧
        k = 8 + (b1.toNat * 256 + b0.toNat + 7) / 8 := by
  simp only [Request.paramLength]
  split
  case h_1 => simp [byteCount, readU16_def, eq_comm (a := k)]
  case h_2 hshort =>
    refine iff_of_false nofun ?_
    rintro ⟨hi, lo, b1, b0, rest, hps, -⟩
    exact hshort hi lo b1 b0 rest hps

/-- What stands from place `m` on is what follows a head of length `m`. -/
theorem drop_eq_cons_iff {α : Type} {m : Nat} {l rest : List α} {a : α} :
    l.drop m = a :: rest ↔ ∃ head : List α, head.length = m ∧ l = head ++ a :: rest := by
  constructor
  · intro h
    have hlt : m < l.length := Nat.lt_of_not_le fun hle => by
      rw [List.drop_eq_nil_of_le hle] at h
      exact List.cons_ne_nil a rest h.symm
    exact ⟨l.take m, List.length_take_of_le hlt.le, by rw [← h, List.take_append_drop]⟩
  · rintro ⟨head, rfl, rfl⟩
    exact List.drop_left

theorem Request.paramLength_profileAdd_eq_some {ps : List Byte} {k : Nat} :
    Request.profileAdd.paramLength ps = some k ↔
      ∃ (head : List Byte) (n : Byte) (rest : List Byte), head.length = 9 ∧ ps = head ++ n :: rest ∧
        k = 10 + 7 * n.toNat := by
  have hdrop : Request.profileAdd.paramLength ps = some k ↔
      ∃ n rest, ps.drop 9 = n :: rest ∧ k = 10 + 7 * n.toNat := by
    simp only [Request.paramLength]
    cases ps.drop 9 with
    | nil => simp
    | cons n rest => simp [eq_comm (a := k)]
  rw [hdrop]
  simp only [drop_eq_cons_iff]
  constructor
  · rintro ⟨n, rest, ⟨head, hlen, hps⟩, hk⟩
    exact ⟨head, n, rest, hlen, hps, hk⟩
  · rintro ⟨head, n, rest, hlen, hps, hk⟩
    exact ⟨n, rest, ⟨head, hlen, hps⟩, hk⟩

/-! ### The refusal -/

/-- The length is looked at before the session and before the owning block (R131 steps 2 to 4). -/
theorem execute_of_not_fits {s : State} {l : SessionId} {q : Request} {ps : List Byte} (hf : q.fits ps = false)
    (run : List Byte → State → Answer) : s.execute l (some q) ps run = s.refuse .badRequest := by
  simp only [State.execute, hf, Bool.not_false, if_true]

theorem exec_row_of_not_fits {q : Request} {s : State} {l : LinkId} {seq : Byte} {ps : List Byte}
    (h : s.asked l q.code seq ps) (hf : q.fits ps = false) :
    exec (q.row l) s = .next (s.responds l (q.code + 0x80#8) seq .badRequest []) := by
  obtain ⟨run, hexec⟩ := exec_row_eq_serve q s l
  rw [hexec, serve_refused h (Request.ofByte_code q) (execute_of_not_fits hf run)]
  rfl

/-- Settles O3: the lengths are read off the layouts, fixed or computed from a leading parameter, and a length that
does not fit is refused before anything else is looked at. -/
theorem wrongLengthIsBadRequest : Obligations.WrongLengthIsBadRequest := by
  refine ⟨fun ps => ⟨?len0, ?len1, ?len2, ?chainConfig, ?linkFormat, ?len5, ?scanIr, ?find, ?openSession, ?describe,
    ?scanDr, ?profileAdd⟩, fun q s l seq ps h hf => exec_row_of_not_fits h hf⟩
  case len0 | len1 | len2 | len5 => exact Request.fits_iff_of_mem rfl
  case chainConfig | linkFormat | scanIr | find => exact Request.fits_iff_of_paramLength rfl
  case openSession => exact (Request.fits_iff _ ps).trans Request.paramLength_openSession_eq_some
  case describe => exact (Request.fits_iff _ ps).trans Request.paramLength_describe_eq_some
  case scanDr => exact (Request.fits_iff _ ps).trans Request.paramLength_scanDr_eq_some
  case profileAdd => exact (Request.fits_iff _ ps).trans Request.paramLength_profileAdd_eq_some

end Sys2Proof.Machine
end

section
/-! PROOFS. The queue, the requests that fail before their owning block, LINK-FORMAT, and the names of records and
jobs (R3, R75, R76, R131, R132, R178, R182). -/

namespace Sys2Proof.Machine

set_option Elab.async false

/-! ### The queue -/

/-- Settles O1: the two cases of `step`. -/
theorem stepRunsFrontCommand : Obligations.StepRunsFrontCommand := by
  refine ⟨fun i rest s h => ?_, fun s h => ?_⟩
  · rw [step, h]
  · rw [step, h]

/-! ### Requests refused by the session -/

/-- The session is looked at after the length and before the owning block (R131 step 3). -/
theorem execute_of_closed {s : State} {l : SessionId} {q : Request} {ps : List Byte} (hf : q.fits ps = true)
    (hc : s.sessions[l] = none) (hq : q.sessionless = false) (run : List Byte → State → Answer) :
    s.execute l (some q) ps run = s.refuse .noSession := by
  simp only [State.execute, hf, hc, hq, Bool.not_true, Bool.not_false, Option.isNone_none, Bool.and_self,
    Bool.false_eq_true, if_false, if_true]

theorem Request.sessionless_eq_false {q : Request} (ho : q ≠ .openSession) (hp : q ≠ .ping) (hf : q ≠ .linkFormat)
    (hs : q ≠ .linkStatus) : q.sessionless = false := by
  cases q with
  | openSession => exact absurd rfl ho
  | ping => exact absurd rfl hp
  | linkFormat => exact absurd rfl hf
  | linkStatus => exact absurd rfl hs
  | _ => rfl

/-- Settles O4: every row is served by the session, which refuses before the owning block runs. -/
theorem closedSessionAnswersNoSession : Obligations.ClosedSessionAnswersNoSession := by
  intro q s l seq ps ho hp hf hs h hfits hc
  obtain ⟨run, hexec⟩ := exec_row_eq_serve q s l
  rw [hexec, serve_refused h (Request.ofByte_code q)
    (execute_of_closed hfits hc (Request.sessionless_eq_false ho hp hf hs) run)]
  rfl

theorem Request.ofByte_eq_none {code : Byte} (h : ∀ q : Request, q.code ≠ code) : Request.ofByte code = none := by
  rw [Request.ofByte, List.find?_eq_none]
  exact fun q _ => by simpa using h q

/-- Settles O5: a code outside the table is no request, so the session refuses it itself. -/
theorem unknownCommandIsBadRequest : Obligations.UnknownCommandIsBadRequest := by
  intro code s l seq ps hcode h
  exact congrArg Host.Outcome.next (serve_refused h (Request.ofByte_eq_none hcode) rfl)

/-! ### LINK-FORMAT -/

theorem readU16_eq_zero {hi lo : Byte} : readU16 hi lo = 0 ↔ hi = 0#8 ∧ lo = 0#8 := by
  rw [readU16_def, ← BitVec.toNat_inj, ← BitVec.toNat_inj]
  simp only [BitVec.toNat_ofNat]
  omega

theorem Parity.ofByte_byte (p : Parity) : Parity.ofByte p.byte = some p := by
  cases p <;> rfl

theorem StopBits.ofByte_byte (b : StopBits) : StopBits.ofByte b.byte = some b := by
  cases b <;> rfl

theorem Parity.ofByte_of_two_lt {p : Byte} (h : 2 < p.toNat) : Parity.ofByte p = Option.none := by
  have hne : ∀ n : Byte, n.toNat ≤ 2 → p ≠ n := by rintro n hn rfl; omega
  rw [Parity.ofByte, if_neg (hne 0#8 (by decide)), if_neg (hne 1#8 (by decide)), if_neg (hne 2#8 (by decide))]

theorem StopBits.ofByte_of_ne {b : Byte} (h1 : b ≠ 1#8) (h2 : b ≠ 2#8) : StopBits.ofByte b = none := by
  rw [StopBits.ofByte, if_neg h1, if_neg h2]

theorem formatOf_good {hi lo : Byte} (h : hi ≠ 0#8 ∨ lo ≠ 0#8) (parity : Parity) (stop : StopBits) :
    formatOf [hi, lo, parity.byte, stop.byte] = some ⟨readU16 hi lo, parity, stop⟩ := by
  have hz : readU16 hi lo ≠ 0 := fun hz => by
    obtain ⟨hhi, hlo⟩ := readU16_eq_zero.mp hz
    exact h.elim (absurd hhi) (absurd hlo)
  simp only [formatOf, Parity.ofByte_byte, StopBits.ofByte_byte, if_neg hz]

theorem formatOf_bad {hi lo p b : Byte} (h : (hi = 0#8 ∧ lo = 0#8) ∨ 2 < p.toNat ∨ (b ≠ 1#8 ∧ b ≠ 2#8)) :
    formatOf [hi, lo, p, b] = none := by
  rcases h with hz | hp | ⟨h1, h2⟩
  · simp only [formatOf, if_pos (readU16_eq_zero.mpr hz)]
    cases Parity.ofByte p <;> cases StopBits.ofByte b <;> rfl
  · simp only [formatOf, Parity.ofByte_of_two_lt hp]
  · simp only [formatOf, StopBits.ofByte_of_ne h1 h2]
    cases Parity.ofByte p <;> rfl

theorem LinkFormat.bytes_of_pair (hi lo : Byte) (parity : Parity) (stop : StopBits) :
    LinkFormat.bytes ⟨hi.toNat * 256 + lo.toNat, parity, stop⟩ = [hi, lo, parity.byte, stop.byte] := by
  simp only [LinkFormat.bytes, Machine.bytes_of_pair, List.cons_append, List.nil_append]

theorem runLinkFormat_of_some {ps : List Byte} {f : LinkFormat} (h : formatOf ps = some f) (s : State) :
    runLinkFormat ps s = ⟨.ok, f.bytes, s, some f, false⟩ := by
  simp only [runLinkFormat, h]

theorem runLinkFormat_of_none {ps : List Byte} (h : formatOf ps = none) (s : State) :
    runLinkFormat ps s = s.refuse .badRequest := by
  simp only [runLinkFormat, h]

/-- Settles O8: a good format is carried by its reply, and the reply's bytes are the parameters again. -/
theorem linkFormatBecomesPending : Obligations.LinkFormatBecomesPending := by
  intro s l seq hi lo p b h
  refine ⟨fun parity stop hd hp hb => ?_, fun hbad => ?_⟩
  · subst hp hb
    have hserve := serve_unchanged (q := .linkFormat) h rfl (.inr rfl)
      (runLinkFormat_of_some (formatOf_good hd parity stop) s)
    rw [readU16_def, LinkFormat.bytes_of_pair] at hserve
    exact congrArg Host.Outcome.next hserve
  · exact answer_unchanged (q := .linkFormat) h rfl (.inr rfl) (runLinkFormat_of_none (formatOf_bad hbad) s)

/-! ### Handles and tickets -/

/-- Settles O10: a handle is its record's slot and generation in one number, and a ticket its job's. -/
theorem handlesAndTicketsName : Obligations.HandlesAndTicketsName :=
  ⟨fun _ _ _ _ => State.named_eq_some, fun _ _ _ _ _ => State.ticketed_eq_some⟩

end Sys2Proof.Machine
end

section
/-! PROOFS. What the commands of a host link do to its HLU: the character receiver (R166, R167), the gap limit (R171),
the break (R168) and the transmitter (R152, R153, R176, R178). -/

namespace Sys2Proof.Machine

set_option Elab.async false

/-! ### One link replaced -/

theorem State.updLink_eq_withLink (s : State) (l : LinkId) (f : Hlu → Hlu) :
    s.updLink l f = s.withLink l (f s.links[l]) := rfl

theorem State.withLink_links (s : State) (l k : LinkId) (x : Hlu) :
    (s.withLink l x).links[k] = if k = l then x else s.links[k] :=
  set_getElem s.links l k x

@[simp] theorem State.withLink_links_self (s : State) (l : LinkId) (x : Hlu) : (s.withLink l x).links[l] = x := by
  rw [State.withLink_links, if_pos rfl]

/-- A link whose cause set stays as it is makes no kind pending (R148). -/
theorem quieter_withLink {s : State} {l : LinkId} {x : Hlu} (h : x.causes = (s.links[l]).causes) :
    (s.withLink l x).quieter s := by
  refine quieter_of rfl rfl rfl (fun k hne => ?_) fun k y z hy hz hne => ?_
  · rw [State.withLink_links] at hne
    split at hne
    case isTrue hk => rwa [hk, ← h]
    case isFalse => exact hne
  · cases hy.symm.trans hz
    exact hne

theorem settle_withLink {s : State} {l : LinkId} {x : Hlu} (h : x.causes = (s.links[l]).causes) :
    settle s (s.withLink l x) = s.withLink l x :=
  settle_of_quieter (quieter_withLink h)

/-! ### The receiver's events -/

section
variable {s : State} {l : LinkId} (hl : s.live = true)
include hl

theorem exec_lineAtMarking :
    exec (.lineAtMarking l) s = .next
      (if (s.links[l]).receiver = .markWait then s.withLink l { s.links[l] with receiver := .startWait } else s) := by
  simp only [exec, execLineAtMarking, hl, Bool.true_and, decide_eq_true_eq, State.updLink_eq_withLink]

theorem exec_startBit :
    exec (.startBit l) s = .next
      (if (s.links[l]).receiver = .startWait then
        s.withLink l
          { s.links[l] with receiver := .character (s.links[l]).format, gap := (s.links[l]).gap.onStart }
      else s) := by
  simp only [exec, execStartBit, hl, Bool.true_and, decide_eq_true_eq, State.updLink_eq_withLink]

theorem exec_startBitNoise {f : LinkFormat} (hr : (s.links[l]).receiver = .character f) :
    exec (.startBitNoise l) s = .next (settle s (s.withLink l (s.links[l]).noise)) := by
  simp only [exec, execStartBitNoise, hr, hl, if_true, State.updLink_eq_withLink]

theorem exec_breakTaken {f : LinkFormat} (hr : (s.links[l]).receiver = .character f) :
    exec (.breakTaken l) s = .next (settle s (s.withLink l ((s.links[l]).breakReset s.baseFormat))) := by
  simp only [exec, execBreakTaken, hr, hl, if_true, State.updLink_eq_withLink]

theorem exec_characterReceived {f : LinkFormat} (hr : (s.links[l]).receiver = .character f) (x : CharSamples) :
    exec (.characterReceived l x) s = .next (settle s (s.receiveChar l f x)) := by
  simp only [exec, execCharacterReceived, hr, hl, if_true]

theorem exec_gapExpiry :
    exec (.gapExpiry l) s = .next
      (if (s.links[l]).assembler ≠ .hunt then settle s (s.withLink l (s.links[l]).gapLimit) else s) := by
  simp only [exec, execGapExpiry, hl, Bool.true_and, decide_eq_true_eq, State.updLink_eq_withLink]

end

/-- Outside CHARACTER there is no character, noise or break to take (log entry 7). -/
theorem exec_of_no_character {s : State} {l : LinkId} (hr : ∀ f, (s.links[l]).receiver ≠ .character f) :
    exec (.startBitNoise l) s = .next s ∧ exec (.breakTaken l) s = .next s ∧
      ∀ x, exec (.characterReceived l x) s = .next s := by
  change execStartBitNoise l s = _ ∧ execBreakTaken l s = _ ∧ ∀ x, execCharacterReceived l x s = _
  unfold execStartBitNoise execBreakTaken execCharacterReceived
  cases h : (s.links[l]).receiver with
  | character f => exact absurd h (hr f)
  | markWait => exact ⟨rfl, rfl, fun _ => rfl⟩
  | startWait => exact ⟨rfl, rfl, fun _ => rfl⟩

theorem GapTimer.onStart_eq (g : GapTimer) : g.onStart = if g = .running then .candidate else g := by
  cases g <;> rfl

theorem Hlu.noise_of_ne_overdue {x : Hlu} (h : x.gap ≠ .overdue) :
    x.noise = { x with receiver := .startWait, gap := if x.gap = .candidate then .running else x.gap } := by
  cases hg : x.gap with
  | overdue => exact absurd hg h
  | _ => simp only [Hlu.noise, hg, reduceCtorEq, if_true, if_false]

theorem Hlu.noise_of_overdue {x : Hlu} (h : x.gap = .overdue) :
    x.noise =
      { x with receiver := .startWait, causes := x.causes ||| 32#7, assembler := .hunt, gap := .stopped } := by
  simp only [Hlu.noise, h]
  rfl

theorem Hlu.noise_causes_of_ne_overdue {x : Hlu} (h : x.gap ≠ .overdue) : x.noise.causes = x.causes := by
  rw [Hlu.noise_of_ne_overdue h]

/-- Settles O35: each move by its equation; noise that leaves no gap behind latches nothing, so queues nothing. -/
theorem receiverMoves : Obligations.ReceiverMoves := by
  intro s l hl
  refine ⟨fun h => ?_, fun h => ?_, fun h => ?_, fun h => ?_, fun f hr => ⟨fun hg => ?_, fun hg _ => ?_⟩,
    fun h => (exec_of_no_character h).1⟩
  · rw [exec_lineAtMarking hl, if_pos h]
  · rw [exec_lineAtMarking hl, if_neg h]
  · rw [exec_startBit hl, if_pos h, GapTimer.onStart_eq]
  · rw [exec_startBit hl, if_neg h]
  · rw [exec_startBitNoise hl hr, settle_withLink (Hlu.noise_causes_of_ne_overdue hg), Hlu.noise_of_ne_overdue hg]
  · rw [exec_startBitNoise hl hr, Hlu.noise_of_overdue hg]

/-! ### Gap and break -/

theorem Hlu.breakReset_eq (x : Hlu) (base : LinkFormat) :
    x.breakReset base =
      { format := base, receiver := .markWait, assembler := .hunt, gap := .stopped, slot := .empty,
        causes := x.causes ||| 64#7, tx := .idle, waiting := none, queuedNotice := false, pendingFormat := none } :=
  rfl

theorem Hlu.gapLimit_of_running {x : Hlu} (h : x.gap = .running) :
    x.gapLimit = { x with causes := x.causes ||| 32#7, assembler := .hunt, gap := .stopped } := by
  simp only [Hlu.gapLimit, h]
  rfl

theorem Hlu.gapLimit_of_candidate {x : Hlu} (h : x.gap = .candidate) : x.gapLimit = { x with gap := .overdue } := by
  simp only [Hlu.gapLimit, h]

theorem Hlu.gapLimit_of_neither {x : Hlu} (hr : x.gap ≠ .running) (hc : x.gap ≠ .candidate) : x.gapLimit = x := by
  cases h : x.gap with
  | running => exact absurd h hr
  | candidate => exact absurd h hc
  | _ => simp only [Hlu.gapLimit, h]

theorem State.withLink_same (s : State) (l : LinkId) : s.withLink l s.links[l] = s := by
  have hlinks : s.links.set l s.links[l] = s.links := by
    refine vector_ext fun k => ?_
    rw [set_getElem]
    split
    case isTrue hk => rw [hk]; rfl
    case isFalse => rfl
  exact congrArg (fun v => { s with links := v }) hlinks

/-- Settles O38: the gap timer's mode decides what the limit does, and a break resets the link from any state of
CHARACTER. -/
theorem gapAndBreakResetLink : Obligations.GapAndBreakResetLink := by
  intro s l hl
  refine ⟨fun hg ha => ?_, fun hg ha => ?_, fun h => ?_, fun f hr => ?_, fun h => (exec_of_no_character h).2.1⟩
  · rw [exec_gapExpiry hl, if_pos ha, Hlu.gapLimit_of_running hg]
  · rw [exec_gapExpiry hl, if_pos ha, Hlu.gapLimit_of_candidate hg]
    exact congrArg Host.Outcome.next (settle_withLink rfl)
  · rw [exec_gapExpiry hl]
    split
    case isTrue ha =>
      obtain ⟨hr, hc⟩ := h.resolve_right ha
      rw [Hlu.gapLimit_of_neither hr hc, State.withLink_same, settle_of_quieter (State.quieter_refl s)]
    case isFalse => rfl
  · rw [exec_breakTaken hl hr, Hlu.breakReset_eq]
    rfl

/-! ### The transmitter -/

theorem sentFrame_eq_frameOf (body : List Byte) : sentFrame body = frameOf body := by
  simp only [sentFrame, frameOf, checkBytes, Config.sync, List.cons_append, List.nil_append]

section
variable {s : State} {l : LinkId} (hl : s.live = true)
include hl

theorem exec_replyStart {body : List Byte} (hw : (s.links[l]).waiting = some body) (ht : (s.links[l]).tx = .idle) :
    exec (.replyStart l) s =
      .next (s.withLink l
        { s.links[l] with tx := .reply (frameOf body) (s.links[l]).format, waiting := none }) := by
  simp only [exec, execReplyStart, hw, hl, ht, decide_true, Bool.and_self, if_true, State.updLink_eq_withLink]

theorem exec_replyEnd {frame : List Byte} {f : LinkFormat} (ht : (s.links[l]).tx = .reply frame f) :
    exec (.replyEnd l) s =
      .next (s.withLink l
        { s.links[l] with
          tx := .idle, slot := .empty, format := (s.links[l]).pendingFormat.getD (s.links[l]).format
          pendingFormat := none }) := by
  simp only [exec, execReplyEnd, ht, hl, if_true, State.updLink_eq_withLink]

theorem exec_noticeStart_some (hq : (s.links[l]).queuedNotice = true) (ht : (s.links[l]).tx = .idle)
    (hw : (s.links[l]).waiting = none) {k : NoticeKind} (hk : s.topNotice l = some k) :
    exec (.noticeStart l) s =
      .next (s.withLink l
        { s.links[l] with tx := .notice (noticeFrame k) (s.links[l]).format, queuedNotice := false }) := by
  simp only [exec, execNoticeStart, hq, hl, ht, hw, hk, decide_true, Option.isNone_none, Bool.and_self, if_true,
    State.updLink_eq_withLink]

theorem exec_noticeStart_none (hq : (s.links[l]).queuedNotice = true) (ht : (s.links[l]).tx = .idle)
    (hw : (s.links[l]).waiting = none) (hk : s.topNotice l = none) :
    exec (.noticeStart l) s = .next (s.withLink l { s.links[l] with queuedNotice := false }) := by
  simp only [exec, execNoticeStart, hq, hl, ht, hw, hk, decide_true, Option.isNone_none, Bool.and_self, if_true,
    State.updLink_eq_withLink]

theorem exec_noticeEnd {frame : List Byte} {f : LinkFormat} (ht : (s.links[l]).tx = .notice frame f) :
    exec (.noticeEnd l) s = .next (s.withLink l { s.links[l] with tx := .idle }) := by
  simp only [exec, execNoticeEnd, ht, hl, if_true, State.updLink_eq_withLink]

end

theorem exec_replyStart_of_not {s : State} {l : LinkId} (h : (s.links[l]).waiting = none ∨ (s.links[l]).tx ≠ .idle) :
    exec (.replyStart l) s = .next s := by
  change execReplyStart l s = _
  unfold execReplyStart
  cases hw : (s.links[l]).waiting with
  | none => rfl
  | some body =>
    have ht : (s.links[l]).tx ≠ .idle := h.resolve_left (by rw [hw]; exact Option.some_ne_none body)
    simp only [ht, decide_false, Bool.and_false, Bool.false_eq_true, if_false]

theorem exec_replyEnd_of_not {s : State} {l : LinkId} (h : ∀ frame f, (s.links[l]).tx ≠ .reply frame f) :
    exec (.replyEnd l) s = .next s := by
  change execReplyEnd l s = _
  unfold execReplyEnd
  cases ht : (s.links[l]).tx with
  | reply frame f => exact absurd ht (h frame f)
  | idle => rfl
  | notice => rfl

theorem exec_noticeStart_of_not {s : State} {l : LinkId}
    (h : (s.links[l]).queuedNotice = false ∨ (s.links[l]).tx ≠ .idle ∨ (s.links[l]).waiting ≠ none) :
    exec (.noticeStart l) s = .next s := by
  simp only [exec, execNoticeStart]
  refine congrArg Host.Outcome.next (if_neg ?_)
  simp only [Bool.and_eq_true, decide_eq_true_eq, Option.isNone_iff_eq_none]
  rintro ⟨⟨⟨-, ht⟩, hw⟩, hq⟩
  rcases h with h | h | h
  · exact Bool.false_ne_true (h.symm.trans hq)
  · exact h ht
  · exact h hw

theorem exec_noticeEnd_of_not {s : State} {l : LinkId} (h : ∀ frame f, (s.links[l]).tx ≠ .notice frame f) :
    exec (.noticeEnd l) s = .next s := by
  change execNoticeEnd l s = _
  unfold execNoticeEnd
  cases ht : (s.links[l]).tx with
  | notice frame f => exact absurd ht (h frame f)
  | idle => rfl
  | reply => rfl

/-- Settles O39: a reply starts and ends by its equations; the frame sent is the body's envelope. -/
theorem replyIsSent : Obligations.ReplyIsSent := by
  intro s l hl
  refine ⟨fun body hw ht => ?_, exec_replyStart_of_not, fun frame f ht => ⟨fun g hp => ?_, fun hp => ?_⟩,
    exec_replyEnd_of_not⟩
  · rw [exec_replyStart hl hw ht, sentFrame_eq_frameOf]
  · rw [exec_replyEnd hl ht, hp, Option.getD_some]
  · rw [exec_replyEnd hl ht, hp, Option.getD_none, ← hp]

/-! ### The notice kinds -/

/-- The highest kind pending, looked for in the order of R148. -/
theorem State.topNotice_eq (s : State) (l : SessionId) :
    s.topNotice l =
      if s.pends l .linkFault then some .linkFault
      else if s.pends l .jobDone then some .jobDone
      else if s.pends l .targetEvent then some .targetEvent
      else if s.pends l .directoryChange then some .directoryChange
      else none := by
  simp only [State.topNotice, NoticeKind.all, List.find?]
  cases s.pends l .linkFault <;> cases s.pends l .jobDone <;> cases s.pends l .targetEvent <;>
    cases s.pends l .directoryChange <;> rfl

theorem exec_noticeStart_of_top {s : State} {l : LinkId} {k : NoticeKind} (hl : s.live = true)
    (hq : (s.links[l]).queuedNotice = true) (ht : (s.links[l]).tx = .idle) (hw : (s.links[l]).waiting = none)
    (hk : s.topNotice l = some k) :
    exec (.noticeStart l) s =
      .next (s.withLink l
        { s.links[l] with
          tx := .notice (sentFrame [0xF0#8, k.code]) (s.links[l]).format, queuedNotice := false }) := by
  rw [exec_noticeStart_some hl hq ht hw hk, sentFrame_eq_frameOf]
  rfl

/-- Settles O40: the kind is the first pending one in the order of R148. -/
theorem noticeIsSent : Obligations.NoticeIsSent := by
  intro s l hl
  refine ⟨fun hq ht hw => ⟨fun h1 => ?_, fun h1 => ⟨fun h2 => ?_, fun h2 => ⟨fun h3 => ?_, fun h3 =>
    ⟨fun h4 => ?_, fun h4 => ?_⟩⟩⟩⟩, exec_noticeStart_of_not, fun frame f ht => exec_noticeEnd hl ht,
    exec_noticeEnd_of_not⟩
  · exact exec_noticeStart_of_top hl hq ht hw (k := .linkFault) (by simp [State.topNotice_eq, h1])
  · exact exec_noticeStart_of_top hl hq ht hw (k := .jobDone) (by simp [State.topNotice_eq, h1, h2])
  · exact exec_noticeStart_of_top hl hq ht hw (k := .targetEvent) (by simp [State.topNotice_eq, h1, h2, h3])
  · exact exec_noticeStart_of_top hl hq ht hw (k := .directoryChange) (by simp [State.topNotice_eq, h1, h2, h3, h4])
  · exact exec_noticeStart_none hl hq ht hw (by simp [State.topNotice_eq, h1, h2, h3, h4])

theorem pends_jobDone {s : State} {l : SessionId} :
    s.pends l .jobDone = true ↔
      ∃ (j : JobId) (x : Job), (s.jobs[j]).job = some x ∧ x.isDone = true ∧ x.session = some l := by
  simp only [State.pends, anyJob_eq_true, Bool.and_eq_true, decide_eq_true_eq]

theorem Job.isDone_eq_true {x : Job} : x.isDone = true ↔ ∃ o data, x.status = .done o data := by
  cases h : x.status <;> simp [Job.isDone, h]

theorem State.boundRecord_eq_some {s : State} {e : LineId} {r : TargetRecord} :
    s.boundRecord e = some r ↔ ∃ h i, (s.lines[e]).binding = some h ∧ s.named h = some (i, r) := by
  simp only [State.boundRecord, Option.bind_eq_some_iff, Option.map_eq_some_iff, Prod.exists, exists_and_left,
    exists_eq_right]

theorem pends_directoryChange {s : State} {l : SessionId} :
    s.pends l .directoryChange = true ↔ ∃ x, s.sessions[l] = some x ∧ x.changed ≠ 0#4 := by
  simp only [State.pends]
  cases h : s.sessions[l] <;> simp

/-- Settles O41: each kind by the table that owns its condition, and the notice byte by the first kind pending. -/
theorem noticeKindsPend : Obligations.NoticeKindsPend := by
  intro s l
  refine ⟨by simp only [State.pends, decide_eq_true_eq], ?_, ?_, pends_directoryChange, fun hc => ?_, fun ho => ?_⟩
  · simp only [pends_jobDone, Job.isDone_eq_true, and_comm]
  · simp only [pends_targetEvent, State.boundRecord_eq_some, TargetRecord.ownedBy, decide_eq_true_eq]
    constructor
    · rintro ⟨e, r, hf, ⟨h, i, hb, hn⟩, ho⟩
      exact ⟨e, h, i, r, hf, hb, hn, ho⟩
    · rintro ⟨e, h, i, r, hf, hb, hn, ho⟩
      exact ⟨e, r, hf, ⟨h, i, hb, hn⟩, ho⟩
  · simp only [State.noticeByte, hc, State.pends, decide_eq_true_eq, ite_not]
    rfl
  · obtain ⟨x, hx⟩ := Option.isSome_iff_exists.mp ho
    simp only [State.noticeByte, hx, State.topNotice_eq]
    split_ifs <;> rfl

end Sys2Proof.Machine
end

section
/-! PROOFS. Everything a command can do to a host link, said once; the laws of the links (R169 to R172, R176, R178) and
the notices (R150, R151) are read off it. -/

namespace Sys2Proof.Machine

set_option Elab.async false

/-! ### What a command can do to a link -/

/-- What a command can make of a link's HLU, before the notices that the event queues. -/
inductive HluMove : Hlu → Hlu → Prop
  | keep (x : Hlu) : HluMove x x
  | powerOn (x : Hlu) (divisor : Nat) : HluMove x (Hlu.powerOn divisor)
  | served {x : Hlu} {body : List Byte} (causes : BitVec 7) (queued : Bool) (reply : List Byte)
      (f : Option LinkFormat) : x.slot = .untaken body → (queued = true → x.queuedNotice = true) →
      HluMove x
        { x with causes := causes, queuedNotice := queued, slot := .taken, waiting := some reply, pendingFormat := f }
  | noticeDropped (x : Hlu) : HluMove x { x with queuedNotice := false }
  | marking {x : Hlu} : x.receiver = .markWait → HluMove x { x with receiver := .startWait }
  | startBit {x : Hlu} : x.receiver = .startWait →
      HluMove x { x with receiver := .character x.format, gap := x.gap.onStart }
  | noise (x : Hlu) : HluMove x x.noise
  | takeByte {x : Hlu} {f : LinkFormat} (b : Byte) : x.receiver = .character f →
      HluMove x (Hlu.takeByte b { x with receiver := .startWait })
  | spoiled (x : Hlu) (r : Receiver) (k : Cause) : HluMove x ({ x with receiver := r }.latch k).abandonFrame
  | gapLimit {x : Hlu} : x.assembler ≠ .hunt → HluMove x x.gapLimit
  | breakReset (x : Hlu) (base : LinkFormat) : HluMove x (x.breakReset base)
  | replyStart {x : Hlu} {body : List Byte} : x.waiting = some body → x.tx = .idle →
      HluMove x { x with tx := .reply (frameOf body) x.format, waiting := none }
  | replyEnd {x : Hlu} {frame : List Byte} {f : LinkFormat} : x.tx = .reply frame f →
      HluMove x { x with
        tx := .idle, slot := .empty, format := x.pendingFormat.getD x.format, pendingFormat := none }
  | noticeStart {x : Hlu} (frame : List Byte) (f : LinkFormat) : x.tx = .idle → x.waiting = none →
      HluMove x { x with tx := .notice frame f, queuedNotice := false }
  | noticeEnd {x : Hlu} {frame : List Byte} {f : LinkFormat} : x.tx = .notice frame f →
      HluMove x { x with tx := .idle }

/-- The state `t` comes from `s` by moves of the links and by the notices that are then queued. -/
def SettledMove (s t : State) : Prop :=
  ∃ u, t = settle s u ∧ ∀ k : LinkId, HluMove s.links[k] u.links[k]

theorem settledMove_settle {s u : State} (h : ∀ k : LinkId, HluMove s.links[k] u.links[k]) :
    SettledMove s (settle s u) :=
  ⟨u, rfl, h⟩

theorem settledMove_of_quieter {s t : State} (hq : t.quieter s) (h : ∀ k : LinkId, HluMove s.links[k] t.links[k]) :
    SettledMove s t :=
  ⟨t, (settle_of_quieter hq).symm, h⟩

theorem moves_of_links_eq {s u : State} (h : u.links = s.links) (k : LinkId) : HluMove s.links[k] u.links[k] := by
  rw [h]
  exact .keep _

theorem moves_withLink {s : State} {l : LinkId} {x : Hlu} (h : HluMove s.links[l] x) (k : LinkId) :
    HluMove s.links[k] (s.withLink l x).links[k] := by
  rw [State.withLink_links]
  split
  case isTrue hk => exact hk ▸ h
  case isFalse => exact .keep _

theorem settledMove_refl (s : State) : SettledMove s s :=
  settledMove_of_quieter (State.quieter_refl s) fun _ => .keep _

theorem settledMove_settle_links {s u : State} (h : u.links = s.links) : SettledMove s (settle s u) :=
  settledMove_settle (moves_of_links_eq h)

theorem settledMove_withLink {s : State} {l : LinkId} {x : Hlu} (hc : x.causes = (s.links[l]).causes)
    (h : HluMove s.links[l] x) : SettledMove s (s.withLink l x) :=
  settledMove_of_quieter (quieter_withLink hc) (moves_withLink h)

/-- A command that does nothing unless its condition holds. -/
theorem settledMove_ite {c : Prop} [Decidable c] {s u : State} (h : c → SettledMove s u) :
    SettledMove s (if c then u else s) := by
  split
  case isTrue hc => exact h hc
  case isFalse => exact settledMove_refl s

/-- A command that changes nothing but chains, power and ticks queues nothing. -/
theorem settledMove_same {s t : State} (hj : t.jobs = s.jobs) (hs : t.slots = s.slots) (hl : t.lines = s.lines)
    (hk : t.links = s.links) (hx : t.sessions = s.sessions) : SettledMove s t :=
  settledMove_of_quieter (quieter_same hj hs hl hk hx) (moves_of_links_eq hk)

/-- A state with all sessions CLOSED, no jobs and nothing flagged has no kind pending. -/
theorem quieter_of_cleared {s t : State} (hk : ∀ l : LinkId, (t.links[l]).causes = 0#7)
    (hj : ∀ j : JobId, (t.jobs[j]).job = none) (he : ∀ e : LineId, (t.lines[e]).flag = false)
    (hx : ∀ l : SessionId, t.sessions[l] = none) : t.quieter s :=
  quieter_intro (fun l h => absurd (hk l) h) (fun j x _ h => by rw [hj] at h; cases h)
    (fun e _ _ h => by rw [he] at h; cases h) (fun l _ y _ h => by rw [hx] at h; cases h)

/-! ### Requests -/

/-- An effect of a request reaches the caller's link alone: the end of a session drops a queued NOTICE, and LINK-STATUS
empties the cause set. -/
theorem RequestEffect.links {q : Request} {l : LinkId} {s u : State} (h : RequestEffect q l s u) :
    u.links = s.links ∨
      ∃ causes queued, (queued = true → (s.links[l]).queuedNotice = true) ∧
        u.links = s.links.set l { s.links[l] with causes := causes, queuedNotice := queued } := by
  cases h with
  | closed => exact .inr ⟨(s.links[l]).causes, false, nofun, by simp [State.endSession, State.updLink]⟩
  | causesEmptied => exact .inr ⟨0#7, (s.links[l]).queuedNotice, id, rfl⟩
  | released => exact .inl (State.releaseClaim_links s _ _)
  | described => exact .inl (State.writeDescription_links s _ _ _)
  | entered => exact .inl (State.enterJob_links s _ _ _ _ _ _)
  | freed => exact .inl (State.freeJobs_links s _)
  | rescanned => exact .inl (State.rescanChain_links s _)
  | bound => exact .inl (State.bindLine_links s _ _ _ _)
  | unbound => exact .inl (State.unbindRecord_links s _)
  | _ => exact .inl rfl

/-- A request's effect and its reply take the frame of the caller's slot. -/
theorem moves_of_request {q : Request} {l : LinkId} {s u w : State} {body : List Byte}
    (hs : (s.links[l]).slot = .untaken body) (he : RequestEffect q l s u) (hw : Handled l u w) (k : LinkId) :
    HluMove s.links[k] w.links[k] := by
  obtain ⟨reply, f, hw⟩ := hw.links
  rw [hw, Fin.getElem_fin, Fin.getElem_fin, set_getElem]
  split
  case isTrue hk =>
    subst hk
    obtain hu | ⟨causes, queued, hq, hu⟩ := he.links
    · rw [hu]
      exact .served _ _ reply f hs id
    · rw [hu, Fin.getElem_fin, set_getElem, if_pos rfl]
      exact .served causes queued reply f hs hq
  case isFalse hk =>
    obtain hu | ⟨causes, queued, -, hu⟩ := he.links
    · rw [hu]
      exact .keep _
    · rw [hu, set_getElem, if_neg hk]
      exact .keep _

theorem settledMove_row (q : Request) (l : LinkId) {s t : State} (h : exec (q.row l) s = .next t) :
    SettledMove s t := by
  obtain ⟨t', he, hcases⟩ := exec_row_cases q s l
  cases he.symm.trans h
  obtain rfl | ⟨-, ⟨body, hs⟩, u, w, hu, hw, rfl⟩ := hcases
  · exact settledMove_refl _
  · exact settledMove_settle (moves_of_request hs hu hw)

theorem settledMove_unknownCommand (l : LinkId) {s t : State} (h : exec (.unknownCommand l) s = .next t) :
    SettledMove s t := by
  obtain ⟨t', he, hcases⟩ := exec_unknown_cases s l
  cases he.symm.trans h
  obtain rfl | ⟨-, ⟨body, hs⟩, w, hw, rfl⟩ := hcases
  · exact settledMove_refl _
  · exact settledMove_settle (moves_of_request hs (.unchanged (q := .ping)) hw)

/-! ### Link events -/

theorem moves_receiveChar {s : State} {l : LinkId} {f : LinkFormat} (hr : (s.links[l]).receiver = .character f)
    (x : CharSamples) (k : LinkId) : HluMove s.links[k] (s.receiveChar l f x).links[k] := by
  unfold State.receiveChar
  cases judgeChar f x with
  | good b =>
    dsimp only
    split
    · exact moves_withLink (.takeByte b hr) k
    · exact moves_withLink (.takeByte b hr) k
  | parityError => exact moves_withLink (.spoiled _ .startWait .parity) k
  | framingError r => exact moves_withLink (.spoiled _ r .framing) k

/-- A queued NOTICE that starts, or is dropped with no kind pending. -/
theorem settledMove_noticeStart (l : LinkId) {s t : State} (h : exec (.noticeStart l) s = .next t) :
    SettledMove s t := by
  change execNoticeStart l s = _ at h
  unfold execNoticeStart at h
  cases h
  split
  case isTrue hc =>
    simp only [Bool.and_eq_true, decide_eq_true_eq, Option.isNone_iff_eq_none] at hc
    obtain ⟨⟨⟨-, ht⟩, hw⟩, -⟩ := hc
    rw [State.updLink_eq_withLink]
    split
    · exact settledMove_withLink rfl (.noticeStart _ _ ht hw)
    · exact settledMove_withLink rfl (.noticeDropped _)
  case isFalse => exact settledMove_refl s

/-! ### Every command -/

/-- What holds of a state and is kept by every disposal of a mismatched job holds after the arbiter's selection. -/
theorem selectJob_induction {P : State → Prop} {c : ChainId}
    (hstep : ∀ (t : State) (j : JobId), P t → P (t.finishJob c j .lengthMismatch [])) (n : Nat) {s : State} (hs : P s) :
    P (selectJob n c s).1 := by
  induction n generalizing s with
  | zero => exact hs
  | succ n ih =>
    rw [selectJob]
    split
    · exact hs
    · split
      · exact ih (hstep _ _ hs)
      · exact hs

theorem State.grantOn_links (s : State) (c : ChainId) : (s.grantOn c).links = s.links := by
  have hsel : (selectJob ((s.chains[c]).queue.length + 1) c s).1.links = s.links :=
    selectJob_induction (P := fun t => t.links = s.links) (fun t j ht => by simpa using ht) _ rfl
  unfold State.grantOn
  split
  · exact State.grantPark_links s _ _ _
  · split
    case h_1 heq => rw [heq] at hsel; rw [State.grantJob_links, hsel]
    case h_2 heq => rw [heq] at hsel; exact hsel

/-- A part whose tables stand cleared has moved its links to their power-on values. -/
theorem settledMove_of_cleared {s t : State} {divisor : Nat} (hk : ∀ l : LinkId, t.links[l] = Hlu.powerOn divisor)
    (hj : ∀ j : JobId, (t.jobs[j]).job = none) (he : ∀ e : LineId, (t.lines[e]).flag = false)
    (hx : ∀ l : SessionId, t.sessions[l] = none) : SettledMove s t :=
  settledMove_of_quieter (quieter_of_cleared (fun l => by rw [hk]; rfl) hj he hx) fun k => by
    rw [hk]
    exact .powerOn _ _

/-- Whatever the command, the links move by `HluMove` and then the notices of the event are queued. -/
theorem exec_settledMove (i : Instr) : ∀ {s t : State}, exec i s = .next t → SettledMove s t := by
  refine instr_cases (P := fun i => ∀ {s t : State}, exec i s = .next t → SettledMove s t)
    (request := fun q l _ _ h => settledMove_row q l h)
    (unknownCommand := fun l _ _ h => settledMove_unknownCommand l h)
    (noticeStart := fun l _ _ h => settledMove_noticeStart l h)
    (powerOn := ?powerOn) (internalResetEnd := ?internalResetEnd) (resetNAssert := ?resetNAssert)
    (resetNRelease := ?resetNRelease) (characterReceived := ?characterReceived) (breakTaken := ?breakTaken)
    (gapExpiry := ?gapExpiry) (replyStart := ?replyStart) (replyEnd := ?replyEnd) (noticeEnd := ?noticeEnd)
    (keepaliveExpiry := ?keepaliveExpiry) (waitLimitExpiry := ?waitLimitExpiry) (grant := ?grant)
    (scanCompletion := ?scanCompletion) (chainResetCompletion := ?chainResetCompletion)
    (returnCompletion := ?returnCompletion) (testResetComplete := ?testResetComplete) (idRead := ?idRead)
    (irMeasure := ?irMeasure) (bypassCount := ?bypassCount) (closingAction := ?closingAction)
    (eventLineSample := ?eventLineSample) (lineAtMarking := ?lineAtMarking) (startBit := ?startBit)
    (startBitNoise := ?startBitNoise) i
  case powerOn =>
    rintro s _ ⟨⟩
    exact settledMove_of_cleared (divisor := 120) (by simp [State.reset]) (by simp [State.reset])
      (by simp [State.reset, EventLine.powerOn]) (by simp [State.reset])
  case internalResetEnd =>
    rintro straps high s _ ⟨⟩
    split
    · exact settledMove_of_cleared (divisor := Straps.baseDivisor straps) (by simp [State.poweredOn])
        (by simp [State.poweredOn, State.reset]) (by simp [State.poweredOn, State.reset, EventLine.powerOn])
        (by simp [State.poweredOn, State.reset])
    · exact settledMove_refl s
  case resetNAssert =>
    rintro s _ ⟨⟩
    split
    · exact settledMove_of_cleared (divisor := s.baseDivisor) (by simp [State.warmReset]) (fun j => by
        simp only [State.warmReset, Fin.getElem_fin, State.mapJobs_getElem]
        split
        case isTrue => rfl
        case isFalse h => simpa using h) (by simp [State.warmReset]) (by simp [State.warmReset])
    · exact settledMove_refl s
  case resetNRelease =>
    rintro s _ ⟨⟩
    exact settledMove_ite fun _ => settledMove_same rfl rfl rfl rfl rfl
  case characterReceived =>
    rintro l x s _ ⟨⟩
    split
    next f hr =>
      exact settledMove_ite fun _ => settledMove_settle (moves_receiveChar hr x)
    next => exact settledMove_refl s
  case breakTaken =>
    rintro l s _ ⟨⟩
    split
    · exact settledMove_ite fun _ => settledMove_settle (moves_withLink (.breakReset _ _))
    · exact settledMove_refl s
  case startBitNoise =>
    rintro l s _ ⟨⟩
    split
    · exact settledMove_ite fun _ => settledMove_settle (moves_withLink (.noise _))
    · exact settledMove_refl s
  case gapExpiry =>
    rintro l s _ ⟨⟩
    refine settledMove_ite fun h => ?_
    rw [Bool.and_eq_true, decide_eq_true_eq] at h
    exact settledMove_settle (moves_withLink (.gapLimit h.2))
  case lineAtMarking =>
    rintro l s _ ⟨⟩
    refine settledMove_ite fun h => ?_
    rw [Bool.and_eq_true, decide_eq_true_eq] at h
    exact settledMove_withLink rfl (.marking h.2)
  case startBit =>
    rintro l s _ ⟨⟩
    refine settledMove_ite fun h => ?_
    rw [Bool.and_eq_true, decide_eq_true_eq] at h
    exact settledMove_withLink rfl (.startBit h.2)
  case replyStart =>
    rintro l s _ ⟨⟩
    split
    next body hw =>
      refine settledMove_ite fun h => ?_
      rw [Bool.and_eq_true, decide_eq_true_eq] at h
      exact settledMove_withLink rfl (.replyStart hw h.2)
    next => exact settledMove_refl s
  case replyEnd =>
    rintro l s _ ⟨⟩
    split
    next ht =>
      exact settledMove_ite fun _ => settledMove_withLink rfl (.replyEnd ht)
    next => exact settledMove_refl s
  case noticeEnd =>
    rintro l s _ ⟨⟩
    split
    next ht =>
      exact settledMove_ite fun _ => settledMove_withLink rfl (.noticeEnd ht)
    next => exact settledMove_refl s
  case keepaliveExpiry =>
    rintro l s _ ⟨⟩
    split
    · split
      · exact settledMove_settle fun k => by
          have hlinks : (s.endSession l).links = s.links.set l { s.links[l] with queuedNotice := false } := by
            simp [State.endSession, State.updLink]
          rw [hlinks]
          exact moves_withLink (.noticeDropped _) k
      · exact settledMove_refl s
    · exact settledMove_refl s
  case waitLimitExpiry =>
    rintro j s _ ⟨⟩
    split
    · exact settledMove_ite fun _ => settledMove_settle_links (State.finishJob_links s _ _ _ _)
    · exact settledMove_refl s
  case grant =>
    rintro c s _ ⟨⟩
    exact settledMove_ite fun _ => settledMove_settle_links (s.grantOn_links c)
  case scanCompletion =>
    rintro c d s _ ⟨⟩
    split
    · split
      · split
        · exact settledMove_settle_links (State.completeScan_links s _ _)
        · exact settledMove_settle_links (State.declareFault_links s _)
      · exact settledMove_refl s
    · exact settledMove_refl s
  case chainResetCompletion =>
    rintro c s _ ⟨⟩
    split
    · split
      · exact settledMove_ite fun _ => settledMove_settle_links (by simp)
      · exact settledMove_refl s
    · exact settledMove_refl s
  case returnCompletion =>
    rintro c s _ ⟨⟩
    exact settledMove_ite fun _ => settledMove_settle_links (by simp)
  case testResetComplete =>
    rintro c s _ ⟨⟩
    exact settledMove_ite fun _ => settledMove_same (by simp) (by simp) (by simp) (by simp) (by simp)
  case idRead =>
    rintro c d s _ ⟨⟩
    split
    · split
      · split
        · exact settledMove_same (by simp) (by simp) (by simp) (by simp) (by simp)
        · exact settledMove_settle_links (State.enumFault_links s _ _)
        · exact settledMove_refl s
      · exact settledMove_refl s
    · exact settledMove_refl s
  case irMeasure =>
    rintro c d s _ ⟨⟩
    split
    · split
      · split
        · split
          · exact settledMove_settle_links (State.enumFault_links s _ _)
          · exact settledMove_same (by simp) (by simp) (by simp) (by simp) (by simp)
        · exact settledMove_settle_links (State.enumFault_links s _ _)
        · exact settledMove_refl s
      · exact settledMove_refl s
    · exact settledMove_refl s
  case bypassCount =>
    rintro c d s _ ⟨⟩
    split
    · split
      · split
        · exact settledMove_same rfl rfl rfl rfl rfl
        · exact settledMove_settle_links (State.enumFault_links s _ _)
        · exact settledMove_refl s
      · exact settledMove_refl s
    · exact settledMove_refl s
  case closingAction =>
    rintro c s _ ⟨⟩
    split
    · exact settledMove_ite fun _ => settledMove_settle_links (State.closeEnum_links s _ _ _ _)
    · exact settledMove_refl s
  case eventLineSample =>
    rintro pins s _ ⟨⟩
    exact settledMove_ite fun _ => settledMove_settle_links (State.tick_links s _)

end Sys2Proof.Machine
end

section
/-! PROOFS. Every step keeps the laws of the host links, and queues a NOTICE exactly on a transition to pending. -/

namespace Sys2Proof.Machine

set_option Elab.async false

/-! ### The laws of one link -/

/-- The laws of one Host Link Unit, as `State.linksLaw` asks for them. -/
def Hlu.laws (x : Hlu) : Prop :=
  x.replyLaw ∧ x.pendingLaw ∧ x.assemblyLaw ∧ x.timerLaw

/-- The laws of the reply and of the pending format look at the slot and the transmitter. -/
def Hlu.replyLaws (x : Hlu) : Prop :=
  x.replyLaw ∧ x.pendingLaw

/-- The laws of the assembler and the gap timer look at the receiver. -/
def Hlu.receiverLaws (x : Hlu) : Prop :=
  x.assemblyLaw ∧ x.timerLaw

theorem Hlu.laws_iff {x : Hlu} : x.laws ↔ x.replyLaws ∧ x.receiverLaws :=
  and_assoc.symm

/-- A slot that is not HELD by a taken frame has no reply and no pending format. -/
theorem Hlu.replyLaws_of_not_taken {x : Hlu} (hs : x.slot ≠ .taken) (hw : x.waiting = none)
    (ht : ∀ frame f, x.tx ≠ .reply frame f) (hp : x.pendingFormat = none) : x.replyLaws := by
  simp [Hlu.replyLaws, Hlu.replyLaw, Hlu.pendingLaw, hs, hw, ht, hp]

/-- A frame that enters an EMPTY slot waits for the session, with no reply yet. -/
theorem Hlu.replyLaws_placeFrame {x : Hlu} (h : x.replyLaws) (body : List Byte) : (x.placeFrame body).replyLaws := by
  unfold Hlu.placeFrame
  split
  case h_1 hs => simp_all [Hlu.replyLaws, Hlu.replyLaw, Hlu.pendingLaw]
  case h_2 => exact h
  case h_3 => exact h

/-- In HUNT with the timer stopped the receiver's laws hold. -/
theorem Hlu.receiverLaws_of_hunt {x : Hlu} (ha : x.assembler = .hunt) (hg : x.gap = .stopped) : x.receiverLaws := by
  simp [Hlu.receiverLaws, Hlu.assemblyLaw, Hlu.timerLaw, ha, hg]

theorem Hlu.placeFrame_receiverLaws {x : Hlu} (h : x.receiverLaws) (body : List Byte) :
    (x.placeFrame body).receiverLaws := by
  unfold Hlu.placeFrame
  split <;> exact h

/-- The assembler's law looks at the gap timer only for whether it has stopped. -/
theorem Hlu.assemblyLaw_of_gap {x y : Hlu} (h : x.assemblyLaw) (ha : y.assembler = x.assembler)
    (hg : y.gap = .stopped ↔ x.gap = .stopped) : y.assemblyLaw := by
  unfold Hlu.assemblyLaw at h ⊢
  rw [ha]
  cases hx : x.assembler <;> simp_all

/-- Between characters the timer's law asks that the timer is not left open. -/
theorem Hlu.timerLaw_of_no_character {x : Hlu} (hr : ∀ f, x.receiver ≠ .character f) (hc : x.gap ≠ .candidate)
    (ho : x.gap ≠ .overdue) : x.timerLaw :=
  ⟨fun h => (h.elim hc ho).elim, fun _ => hr⟩

/-- A frame in assembly keeps within its length byte (R169). -/
def Assembler.within : Assembler → Prop
  | .hunt => False
  | .length => True
  | .body len got => 2 ≤ len.toNat ∧ len.toNat ≤ 250 ∧ got.length < len.toNat
  | .check len got _ => 2 ≤ len.toNat ∧ len.toNat ≤ 250 ∧ got.length = len.toNat

theorem Hlu.assemblyLaw_iff {x : Hlu} :
    x.assemblyLaw ↔ (x.assembler = .hunt ∧ x.gap = .stopped) ∨ (x.assembler.within ∧ x.gap ≠ .stopped) := by
  unfold Hlu.assemblyLaw
  cases h : x.assembler <;> simp [Assembler.within, and_comm]

theorem Hlu.receiverLaws_continueFrame {x : Hlu} {a : Assembler} (ha : a.within)
    (hr : ∀ f, x.receiver ≠ .character f) : (x.continueFrame a).receiverLaws :=
  ⟨Hlu.assemblyLaw_iff.mpr (.inr ⟨ha, nofun⟩), Hlu.timerLaw_of_no_character hr nofun nofun⟩

/-! ### Each move -/

/-- A character under way has stopped the timer or left it open, so after it only the assembler restarts it. -/
theorem Hlu.takeByte_receiverLaws {x : Hlu} (h : x.assemblyLaw) (hr : ∀ f, x.receiver ≠ .character f) (b : Byte) :
    (x.takeByte b).receiverLaws := by
  unfold Hlu.takeByte
  rw [Hlu.assemblyLaw_iff] at h
  cases ha : x.assembler with
  | hunt =>
    have hg : x.gap = .stopped := by simpa [ha, Assembler.within] using h
    dsimp only
    split
    · exact Hlu.receiverLaws_continueFrame trivial hr
    · exact Hlu.receiverLaws_of_hunt ha hg
  | length =>
    dsimp only
    split
    next hb => exact Hlu.receiverLaws_continueFrame ⟨hb.1, hb.2, by simp only [List.length_nil]; omega⟩ hr
    next => exact Hlu.receiverLaws_of_hunt rfl rfl
  | body len got =>
    obtain ⟨h1, h2, h3⟩ : 2 ≤ len.toNat ∧ len.toNat ≤ 250 ∧ got.length < len.toNat := by
      simp only [ha, reduceCtorEq, false_and, false_or, Assembler.within] at h
      exact h.1
    dsimp only
    split
    next hlen =>
      exact Hlu.receiverLaws_continueFrame ⟨h1, h2, by rw [List.length_append]; exact hlen⟩ hr
    next hlen =>
      refine Hlu.receiverLaws_continueFrame ⟨h1, h2, ?_⟩ hr
      rw [List.length_append, List.length_singleton]
      omega
  | check len got high =>
    have hw : (Assembler.check len got high).within := by
      simp only [ha, reduceCtorEq, false_and, false_or] at h
      exact h.1
    cases high with
    | none => exact Hlu.receiverLaws_continueFrame hw hr
    | some high =>
      dsimp only
      split
      · exact Hlu.placeFrame_receiverLaws (Hlu.receiverLaws_of_hunt rfl rfl) got
      · exact Hlu.receiverLaws_of_hunt rfl rfl

theorem Hlu.takeByte_replyLaws {x : Hlu} (h : x.replyLaws) (b : Byte) : (x.takeByte b).replyLaws := by
  unfold Hlu.takeByte
  repeat' split
  case h_5.isTrue => exact Hlu.replyLaws_placeFrame (x := x.abandonFrame) h _
  all_goals exact h

theorem Hlu.noise_receiverLaws {x : Hlu} (h : x.receiverLaws) : x.noise.receiverLaws := by
  cases hg : x.gap with
  | overdue => rw [Hlu.noise_of_overdue hg]; exact Hlu.receiverLaws_of_hunt rfl rfl
  | _ =>
    rw [Hlu.noise_of_ne_overdue (by rw [hg]; nofun)]
    exact ⟨Hlu.assemblyLaw_of_gap h.1 rfl (by simp [hg]),
      Hlu.timerLaw_of_no_character nofun (by simp [hg]) (by simp [hg])⟩

theorem Hlu.noise_replyLaws {x : Hlu} (h : x.replyLaws) : x.noise.replyLaws := by
  unfold Hlu.noise
  split <;> exact h

theorem Hlu.gapLimit_receiverLaws {x : Hlu} (h : x.receiverLaws) : x.gapLimit.receiverLaws := by
  unfold Hlu.gapLimit
  split
  case h_2 => exact Hlu.receiverLaws_of_hunt rfl rfl
  case h_3 hg =>
    exact ⟨Hlu.assemblyLaw_of_gap h.1 rfl (by simp [hg]), fun _ => h.2.1 (.inl hg), nofun⟩
  all_goals exact h

theorem Hlu.gapLimit_replyLaws {x : Hlu} (h : x.replyLaws) : x.gapLimit.replyLaws := by
  unfold Hlu.gapLimit
  split <;> exact h

theorem GapTimer.onStart_spec (g : GapTimer) : (g.onStart = .stopped ↔ g = .stopped) ∧ g.onStart ≠ .running := by
  cases g <;> simp [GapTimer.onStart]

theorem HluMove.laws {x y : Hlu} (h : HluMove x y) (hx : x.laws) : y.laws := by
  rw [Hlu.laws_iff] at hx ⊢
  obtain ⟨hr, hv⟩ := hx
  cases h with
  | keep => exact ⟨hr, hv⟩
  | powerOn => exact ⟨Hlu.replyLaws_of_not_taken nofun rfl nofun rfl, Hlu.receiverLaws_of_hunt rfl rfl⟩
  | served c q reply f hs _ =>
    refine ⟨?_, hv⟩
    simp_all [Hlu.replyLaws, Hlu.replyLaw, Hlu.pendingLaw]
  | noticeDropped => exact ⟨hr, hv⟩
  | marking hm =>
    refine ⟨hr, hv.1, Hlu.timerLaw_of_no_character nofun (fun hc => ?_) (fun ho => ?_)⟩
    · obtain ⟨f, hf⟩ := hv.2.1 (.inl hc)
      cases hm.symm.trans hf
    · obtain ⟨f, hf⟩ := hv.2.1 (.inr ho)
      cases hm.symm.trans hf
  | startBit hm =>
    obtain ⟨hstop, hrun⟩ := GapTimer.onStart_spec x.gap
    exact ⟨hr, Hlu.assemblyLaw_of_gap hv.1 rfl hstop, fun _ => ⟨_, rfl⟩, fun h => absurd h hrun⟩
  | noise => exact ⟨Hlu.noise_replyLaws hr, Hlu.noise_receiverLaws hv⟩
  | takeByte b hm =>
    exact ⟨Hlu.takeByte_replyLaws (x := { x with receiver := .startWait }) hr b,
      Hlu.takeByte_receiverLaws (x := { x with receiver := .startWait }) hv.1 (fun _ => by simp) b⟩
  | spoiled r k => exact ⟨hr, Hlu.receiverLaws_of_hunt rfl rfl⟩
  | gapLimit => exact ⟨Hlu.gapLimit_replyLaws hr, Hlu.gapLimit_receiverLaws hv⟩
  | breakReset base => exact ⟨Hlu.replyLaws_of_not_taken nofun rfl nofun rfl, Hlu.receiverLaws_of_hunt rfl rfl⟩
  | replyStart hw ht =>
    refine ⟨?_, hv⟩
    simp_all [Hlu.replyLaws, Hlu.replyLaw, Hlu.pendingLaw]
  | replyEnd ht =>
    refine ⟨?_, hv⟩
    simp_all [Hlu.replyLaws, Hlu.replyLaw, Hlu.pendingLaw]
  | noticeStart frame f ht hw =>
    refine ⟨?_, hv⟩
    simp_all [Hlu.replyLaws, Hlu.replyLaw, Hlu.pendingLaw]
  | noticeEnd ht =>
    refine ⟨?_, hv⟩
    simp_all [Hlu.replyLaws, Hlu.replyLaw, Hlu.pendingLaw]

/-! ### Every step -/

/-- The notices of an event change nothing on a link but `queuedNotice`. -/
theorem settle_link (s u : State) (k : LinkId) :
    ∃ queued, (settle s u).links[k] = { u.links[k] with queuedNotice := queued } := by
  simp only [Fin.getElem_fin, settle_getElem]
  split
  · split
    · exact ⟨true, rfl⟩
    · exact ⟨_, rfl⟩
  · exact ⟨_, rfl⟩

/-- What every command keeps, every step keeps: a step runs a command on the state with the rest of the queue, and on
an empty queue it changes nothing. -/
theorem step_keeps {P : State → Prop} (hpending : ∀ (s : State) (rest : List Instr), P s → P { s with pending := rest })
    (hexec : ∀ (i : Instr) (s t : State), P s → exec i s = .next t → P t) {s t : State} (hs : P s)
    (h : step s = .next t) : P t := by
  unfold step at h
  split at h
  · exact hexec _ _ t (hpending s _ hs) h
  · cases h
    exact hs

/-- Settles O58: whatever the command, each link moves by `HluMove`, every move keeps the laws, and the notices queued
after it do not touch them. -/
theorem linksKeepTheirLaws : Obligations.LinksKeepTheirLaws := by
  intro s t hs h
  refine step_keeps (P := State.linksLaw) (fun _ _ hs => hs) (fun i s t hs h => ?_) hs h
  obtain ⟨u, rfl, hmove⟩ := exec_settledMove i h
  intro k
  obtain ⟨queued, hk⟩ := settle_link s u k
  rw [hk]
  exact (hmove k).laws (hs k)

/-! ### Notices -/

theorem HluMove.queuedNotice {x y : Hlu} (h : HluMove x y) : y.queuedNotice = true → x.queuedNotice = true := by
  cases h with
  | served _ _ _ _ _ hq => exact hq
  | noise =>
    unfold Hlu.noise
    split <;> exact id
  | gapLimit =>
    unfold Hlu.gapLimit
    split <;> exact id
  | takeByte b hm =>
    unfold Hlu.takeByte
    repeat' split
    case h_5.isTrue => unfold Hlu.placeFrame; split <;> exact id
    all_goals exact id
  | powerOn => exact nofun
  | noticeDropped => exact nofun
  | breakReset => exact nofun
  | noticeStart => exact nofun
  | _ => exact id

theorem pends_settle (s u : State) (l : SessionId) (k : NoticeKind) : (settle s u).pends l k = u.pends l k := by
  obtain ⟨queued, hl⟩ := settle_link s u l
  exact pends_congr (by rw [hl]) (settle_jobs s u) (settle_slots s u) (settle_lines s u) (by rw [settle_sessions]) k

theorem transition_eq_true {s t : State} {l : SessionId} :
    transition s t l = true ↔ s.isOpen l ∧ ∃ k, s.pends l k = false ∧ t.pends l k = true := by
  have hall : ∀ k, k ∈ NoticeKind.all := fun k => by cases k <;> simp [NoticeKind.all]
  simp only [transition, Bool.and_eq_true, List.any_eq_true, Bool.not_eq_true']
  constructor
  · rintro ⟨ho, k, -, ht, hs⟩
    exact ⟨ho, k, hs, ht⟩
  · rintro ⟨ho, k, hs, ht⟩
    exact ⟨ho, k, hall k, ht, hs⟩

/-- Settles O56: the event's notices are queued once, from the states before and after it, and nothing else queues
one. -/
theorem noticesFollowTransitions : Obligations.NoticesFollowTransitions := by
  intro i s t l h
  obtain ⟨u, rfl, hmove⟩ := exec_settledMove i h
  simp only [pends_settle, settle_sessions]
  refine ⟨fun x y k hx hy hpush hs ht => ?_, fun hs ht => ?_⟩
  · have htr : transition s u l = true := transition_eq_true.mpr ⟨isOpen_of hx, k, hs, ht⟩
    simp only [Fin.getElem_fin] at hy
    simp only [Fin.getElem_fin, settle_getElem, hy, hpush, htr, Bool.and_self, if_true]
  · simp only [Fin.getElem_fin, settle_getElem] at ht
    have hkept : (u.links[l]).queuedNotice ≠ true := fun hq => by
      rw [(hmove l).queuedNotice hq] at hs
      cases hs
    split at ht
    next y hy =>
      split at ht
      next hc =>
        rw [Bool.and_eq_true, transition_eq_true] at hc
        obtain ⟨hpush, ho, hk⟩ := hc
        exact ⟨ho, ⟨y, hy, hpush⟩, hk⟩
      next => exact absurd ht hkept
    next => exact absurd ht hkept

end Sys2Proof.Machine
end

section
/-! PROOFS. The characters of a frame: their judgement (R165 to R167), the frame assembler (R169, R170), and a whole
frame from its sync byte to the request slot (R172, R181). -/

namespace Sys2Proof.Machine

set_option Elab.async false

/-! ### Parity and the judgement -/

theorem foldl_xor_eq {α : Type} (f : α → Bool) (xs : List α) (p : Bool) :
    xs.foldl (fun q k => q ^^ f k) p = (p ^^ decide (xs.countP f % 2 = 1)) := by
  induction xs generalizing p with
  | nil => simp
  | cons a xs ih =>
    rw [List.foldl_cons, ih, List.countP_cons]
    rcases Nat.mod_two_eq_zero_or_one (xs.countP f) with h | h <;> cases f a <;> cases p <;>
      simp [h, Nat.add_mod]

theorem oddOnes_eq (b : Byte) : oddOnes b = decide ((List.range 8).countP b.getLsbD % 2 = 1) := by
  rw [oddOnes, foldl_xor_eq, Bool.false_xor]

theorem Parity.agrees_iff (p : Parity) (b : Byte) (bit : Bool) : p.agrees b bit = true ↔ parityAgrees p b bit := by
  generalize hn : (List.range 8).countP b.getLsbD = n
  cases p with
  | none => simp [Parity.agrees, Parity.bitFor, parityAgrees]
  | even =>
    simp only [Parity.agrees, Parity.bitFor, parityAgrees, oddOnes_eq, hn, decide_eq_true_eq]
    cases bit <;> simp; omega
  | odd =>
    simp only [Parity.agrees, Parity.bitFor, parityAgrees, oddOnes_eq, hn, decide_eq_true_eq]
    cases bit <;> simp; omega

theorem judgeChar_of_spacing {c : CharSamples} (f : LinkFormat) (h : c.stop = false) :
    judgeChar f c = .framingError (if c.allSpacing then .startWait else .markWait) := by
  simp only [judgeChar, h, Bool.false_eq_true, if_false]
  split <;> rfl

theorem judgeChar_of_parity {c : CharSamples} {f : LinkFormat} (h : c.stop = true)
    (hp : ¬ parityAgrees f.parity c.data c.parity) : judgeChar f c = .parityError := by
  rw [← Parity.agrees_iff, Bool.not_eq_true] at hp
  simp only [judgeChar, h, hp, Bool.false_eq_true, if_false, if_true]

theorem judgeChar_of_good {c : CharSamples} {f : LinkFormat} (h : c.stop = true)
    (hp : parityAgrees f.parity c.data c.parity) : judgeChar f c = .good c.data := by
  rw [← Parity.agrees_iff] at hp
  simp only [judgeChar, h, hp, if_true]

/-! ### The frame assembler -/

section
variable {x : Hlu} {b : Byte}

theorem Hlu.takeByte_sync (h : x.assembler = .hunt) : x.takeByte 0xD5#8 = x.continueFrame .length := by
  simp only [Hlu.takeByte, h, Config.sync, if_true]

theorem Hlu.takeByte_noise (h : x.assembler = .hunt) (hb : b ≠ 0xD5#8) : x.takeByte b = x := by
  simp only [Hlu.takeByte, h, if_neg (show b ≠ Config.sync from hb)]

theorem Hlu.takeByte_length (h : x.assembler = .length) (h2 : 2 ≤ b.toNat) (h250 : b.toNat ≤ 250) :
    x.takeByte b = x.continueFrame (.body b []) := by
  simp only [Hlu.takeByte, h, h2, h250, and_self, if_true]

theorem Hlu.takeByte_badLength (h : x.assembler = .length) (hb : b.toNat < 2 ∨ 250 < b.toNat) :
    x.takeByte b = (x.latch .length).abandonFrame := by
  have hn : ¬ (2 ≤ b.toNat ∧ b.toNat ≤ 250) := by omega
  simp only [Hlu.takeByte, h, if_neg hn]

theorem Hlu.takeByte_body {len : Byte} {got : List Byte} (h : x.assembler = .body len got)
    (hn : got.length + 1 ≠ len.toNat) : x.takeByte b = x.continueFrame (.body len (got ++ [b])) := by
  simp only [Hlu.takeByte, h, if_neg hn]

theorem Hlu.takeByte_lastBody {len : Byte} {got : List Byte} (h : x.assembler = .body len got)
    (hn : got.length + 1 = len.toNat) : x.takeByte b = x.continueFrame (.check len (got ++ [b]) none) := by
  simp only [Hlu.takeByte, h, if_pos hn]

theorem Hlu.takeByte_check {len : Byte} {got : List Byte} (h : x.assembler = .check len got none) :
    x.takeByte b = x.continueFrame (.check len got (some b)) := by
  simp only [Hlu.takeByte, h]

theorem Hlu.takeByte_badCheck {len high : Byte} {got : List Byte} (h : x.assembler = .check len got (some high))
    (hb : [high, b] ≠ checkBytes len got) : x.takeByte b = (x.latch .check).abandonFrame := by
  simp only [Hlu.takeByte, h, if_neg hb]

theorem Hlu.takeByte_goodCheck {len high : Byte} {got : List Byte} (h : x.assembler = .check len got (some high))
    (hb : [high, b] = checkBytes len got) : x.takeByte b = x.abandonFrame.placeFrame got := by
  simp only [Hlu.takeByte, h, if_pos hb]

end

/-- The check bytes are the two halves of the CRC-16 (R181). -/
theorem append_eq_crc16 {high low len : Byte} {got : List Byte} (h : [high, low] = checkBytes len got) :
    high ++ low = crc16 (len :: got) := by
  simp only [checkBytes, List.cons.injEq, and_true] at h
  obtain ⟨rfl, rfl⟩ := h
  generalize crc16 (len :: got) = w
  ext k hk
  simp only [BitVec.getElem_append, BitVec.getElem_extractLsb']
  split
  · simp; rfl
  · simp [show 8 + (k - 8) = k by omega]
    rfl

/-! ### A character received -/

section
variable {s : State} {l : LinkId} {f : LinkFormat} {c : CharSamples} (hl : s.live = true)
  (hr : (s.links[l]).receiver = .character f)
include hl hr

theorem exec_characterReceived_spacing (hstop : c.stop = false) :
    exec (.characterReceived l c) s = .next (settle s (s.withLink l
      { s.links[l] with
        receiver := if c.allSpacing then .startWait else .markWait
        causes := (s.links[l]).causes ||| 2#7, assembler := .hunt, gap := .stopped })) := by
  rw [exec_characterReceived hl hr, State.receiveChar, judgeChar_of_spacing f hstop]
  rfl

theorem exec_characterReceived_parity (hstop : c.stop = true) (hp : ¬ parityAgrees f.parity c.data c.parity) :
    exec (.characterReceived l c) s = .next (settle s (s.withLink l
      { s.links[l] with
        receiver := .startWait, causes := (s.links[l]).causes ||| 1#7, assembler := .hunt, gap := .stopped })) := by
  rw [exec_characterReceived hl hr, State.receiveChar, judgeChar_of_parity hstop hp]
  rfl

section
variable (hstop : c.stop = true) (hp : parityAgrees f.parity c.data c.parity)
include hstop hp

/-- A good character within a frame, or outside one, goes to the assembler and nowhere else. -/
theorem exec_characterReceived_good (hc : (s.links[l]).assembler.completes c.data = false) :
    exec (.characterReceived l c) s = .next (settle s (s.withLink l
      (Hlu.takeByte c.data { s.links[l] with receiver := .startWait }))) := by
  rw [exec_characterReceived hl hr, State.receiveChar, judgeChar_of_good hstop hp]
  dsimp only
  rw [hc]
  rfl

/-- The character that completes a good frame restarts the keepalive timer (R140). -/
theorem exec_characterReceived_complete (hc : (s.links[l]).assembler.completes c.data = true) :
    exec (.characterReceived l c) s = .next (settle s ((s.withLink l
      (Hlu.takeByte c.data { s.links[l] with receiver := .startWait })).restartKeepalive l)) := by
  rw [exec_characterReceived hl hr, State.receiveChar, judgeChar_of_good hstop hp]
  dsimp only
  rw [hc]
  rfl

/-- A character that the assembler keeps latches nothing, so it queues no NOTICE. -/
theorem exec_characterReceived_kept (hc : (s.links[l]).assembler.completes c.data = false) {x : Hlu}
    (hx : Hlu.takeByte c.data { s.links[l] with receiver := .startWait } = x)
    (hk : x.causes = (s.links[l]).causes) :
    exec (.characterReceived l c) s = .next (s.withLink l x) := by
  rw [exec_characterReceived_good hl hr hstop hp hc, hx, settle_withLink hk]

end

end

theorem Assembler.completes_check {len high b : Byte} {got : List Byte} :
    (Assembler.check len got (some high)).completes b = decide ([high, b] = checkBytes len got) := rfl

/-- Settles O36: the samples are judged first, and a good character does what the assembler's state asks of it. -/
theorem characterIsJudged : Obligations.CharacterIsJudged := by
  intro s l c f hl hr
  refine ⟨fun hstop ha => ?_, fun hstop ha => ?_, fun hstop hp => exec_characterReceived_parity hl hr hstop hp,
    fun hstop hp => ⟨fun h hb => ?_, fun h hb => ?_, fun h h2 h250 => ?_, fun h hb => ?_, fun len got h => ⟨fun hn => ?_,
      fun hn => ?_⟩, fun len got h => ?_, fun len got high h hb => ?_⟩⟩
  · have he := exec_characterReceived_spacing hl hr hstop
    rw [ha] at he
    exact he
  · have he := exec_characterReceived_spacing hl hr hstop
    rw [ha] at he
    exact he
  · exact exec_characterReceived_kept hl hr hstop hp (by rw [h]; rfl)
      (hb ▸ Hlu.takeByte_sync h) rfl
  · exact exec_characterReceived_kept hl hr hstop hp (by rw [h]; rfl)
      (Hlu.takeByte_noise h hb) rfl
  · exact exec_characterReceived_kept hl hr hstop hp (by rw [h]; rfl)
      (Hlu.takeByte_length h h2 h250) rfl
  · rw [exec_characterReceived_good hl hr hstop hp (by rw [h]; rfl),
      Hlu.takeByte_badLength (by exact h) hb]
    rfl
  · exact exec_characterReceived_kept hl hr hstop hp (by rw [h]; rfl)
      (Hlu.takeByte_body h hn) rfl
  · exact exec_characterReceived_kept hl hr hstop hp (by rw [h]; rfl)
      (Hlu.takeByte_lastBody h hn) rfl
  · exact exec_characterReceived_kept hl hr hstop hp (by rw [h]; rfl)
      (Hlu.takeByte_check h) rfl
  · have hne : [high, c.data] ≠ checkBytes len got := fun he => hb (append_eq_crc16 he)
    rw [exec_characterReceived_good hl hr hstop hp (by rw [h, Assembler.completes_check, decide_eq_false hne]),
      Hlu.takeByte_badCheck (by exact h) hne]
    rfl

/-! ### One character after another -/

theorem State.after_cons {s t : State} {i : Instr} (h : exec i s = .next t) (rest : List Instr) :
    s.after (i :: rest) = t.after rest := by
  simp only [State.after, h]

theorem State.after_append {s t : State} {xs : List Instr} (h : s.after xs = some t) (ys : List Instr) :
    s.after (xs ++ ys) = t.after ys := by
  induction xs generalizing s with
  | nil =>
    cases h
    rfl
  | cons i xs ih =>
    rw [List.cons_append]
    simp only [State.after] at h ⊢
    split at h
    · exact ih h
    · cases h

theorem goodSamples_parity (f : LinkFormat) (b : Byte) : parityAgrees f.parity b (goodSamples f b).parity := by
  generalize hn : (List.range 8).countP b.getLsbD = n
  simp only [parityAgrees, goodSamples, hn]
  cases f.parity with
  | none => trivial
  | even => rcases Nat.mod_two_eq_zero_or_one n with h | h <;> simp [h, Nat.add_mod]
  | odd => rcases Nat.mod_two_eq_zero_or_one n with h | h <;> simp [h, Nat.add_mod]

/-- The state within a frame: the assembler's state, and the gap timer running. -/
def State.assembling (s : State) (l : LinkId) (a : Assembler) : State :=
  s.withLink l { s.links[l] with assembler := a, gap := .running }

theorem State.withLink_withLink (s : State) (l : LinkId) (x y : Hlu) :
    (s.withLink l x).withLink l y = s.withLink l y := by
  simp only [State.withLink, Vector.set_set]

theorem State.assembling_assembling (s : State) (l : LinkId) (a b : Assembler) :
    (s.assembling l a).assembling l b = s.assembling l b := by
  simp only [State.assembling, State.withLink_withLink, State.withLink_links_self]

/-- The link once a start bit has come: the receiver ready for a character in the format in force. -/
def Hlu.started (x : Hlu) : Hlu :=
  { x with receiver := .character x.format, gap := x.gap.onStart }

def State.starting (s : State) (l : LinkId) : State :=
  s.withLink l (s.links[l]).started

theorem State.starting_link (s : State) (l : LinkId) : (s.starting l).links[l] = (s.links[l]).started :=
  State.withLink_links_self _ _ _

theorem State.starting_withLink (s : State) (l : LinkId) (x : Hlu) : (s.starting l).withLink l x = s.withLink l x :=
  State.withLink_withLink _ _ _ _

theorem pends_withLink {s : State} {l : LinkId} {x : Hlu} (h : x.causes = (s.links[l]).causes) (k : LinkId)
    (q : NoticeKind) : (s.withLink l x).pends k q = s.pends k q := by
  refine pends_congr (s := s) (t := s.withLink l x) (l := k) ?_ rfl rfl rfl rfl q
  rw [State.withLink_links]
  split
  case isTrue hk => rw [hk, h]
  case isFalse => rfl

theorem pends_starting (s : State) (l k : LinkId) (q : NoticeKind) : (s.starting l).pends k q = s.pends k q :=
  pends_withLink (x := (s.links[l]).started) rfl k q

theorem pends_assembling (s : State) (l : LinkId) (a : Assembler) (k : LinkId) (q : NoticeKind) :
    (s.assembling l a).pends k q = s.pends k q :=
  pends_withLink (x := { s.links[l] with assembler := a, gap := .running }) rfl k q

theorem exec_startBit_starting {s : State} {l : LinkId} (hl : s.live = true) (hr : (s.links[l]).receiver = .startWait) :
    exec (.startBit l) s = .next (s.starting l) := by
  rw [exec_startBit hl, if_pos hr]
  rfl

/-- Between characters the receiver is in START_WAIT, so what a character changes is the assembler and the timer. -/
theorem Hlu.started_continueFrame {x : Hlu} (hr : x.receiver = .startWait) (a : Assembler) :
    Hlu.continueFrame a { x.started with receiver := .startWait } = { x with assembler := a, gap := .running } := by
  simp only [Hlu.continueFrame, Hlu.started, ← hr]

theorem Hlu.started_abandonFrame {x : Hlu} (hr : x.receiver = .startWait) :
    Hlu.abandonFrame { x.started with receiver := .startWait } = x.abandonFrame := by
  simp only [Hlu.abandonFrame, Hlu.started, ← hr]

theorem arrivals_cons (l : LinkId) (f : LinkFormat) (b : Byte) (bs : List Byte) :
    arrivals l f (b :: bs) = [.startBit l, .characterReceived l (goodSamples f b)] ++ arrivals l f bs := rfl

theorem arrivals_append (l : LinkId) (f : LinkFormat) (as bs : List Byte) :
    arrivals l f (as ++ bs) = arrivals l f as ++ arrivals l f bs :=
  List.flatMap_append

/-- A frame is its sync byte, its length byte, its body and the two check bytes of both (R176, R181). -/
theorem sentFrame_eq (body : List Byte) :
    ∃ high low, [high, low] = checkBytes (BitVec.ofNat 8 body.length) body ∧
      sentFrame body = 0xD5#8 :: BitVec.ofNat 8 body.length :: (body ++ [high, low]) :=
  ⟨_, _, rfl, rfl⟩

theorem Hlu.placeFrame_of_empty {x : Hlu} (h : x.slot = .empty) (body : List Byte) :
    x.placeFrame body = { x with slot := .untaken body } := by
  simp only [Hlu.placeFrame, h]

theorem Hlu.placeFrame_of_held {x : Hlu} (h : x.slot ≠ .empty) (body : List Byte) :
    x.placeFrame body = { x with causes := x.causes ||| 4#7 } := by
  unfold Hlu.placeFrame
  split
  case h_1 hs => exact absurd hs h
  case h_2 => rfl
  case h_3 => rfl

theorem settle_congr {s t : State} (hp : ∀ l k, t.pends l k = s.pends l k) (hx : t.sessions = s.sessions) (u : State) :
    settle t u = settle s u := by
  have htr : transition t u = transition s u := funext fun l => by simp only [transition, hp, hx]
  unfold settle
  rw [htr]

section
variable {s : State} {l : LinkId} (hl : s.live = true) (hr : (s.links[l]).receiver = .startWait)
include hl hr

/-- A good character that the assembler keeps leaves the frame one byte longer and the receiver as it was. -/
theorem after_arrival {b : Byte} {a : Assembler}
    (ht : ∀ y : Hlu, y.assembler = (s.links[l]).assembler → y.takeByte b = y.continueFrame a)
    (hc : (s.links[l]).assembler.completes b = false) :
    s.after [.startBit l, .characterReceived l (goodSamples (s.links[l]).format b)] = some (s.assembling l a) := by
  have hlink := s.starting_link l
  have hx : Hlu.takeByte b { (s.starting l).links[l] with receiver := .startWait } =
      { s.links[l] with assembler := a, gap := .running } := by
    rw [hlink]
    exact (ht { (s.links[l]).started with receiver := .startWait } rfl).trans (Hlu.started_continueFrame hr a)
  have hkept : exec (.characterReceived l (goodSamples (s.links[l]).format b)) (s.starting l) =
      .next ((s.starting l).withLink l { s.links[l] with assembler := a, gap := .running }) :=
    exec_characterReceived_kept (s := s.starting l) (l := l) (f := (s.links[l]).format)
      (c := goodSamples (s.links[l]).format b) hl (by rw [hlink]; rfl) rfl (goodSamples_parity _ b) (by rw [hlink]; exact hc) hx (by rw [hlink]; rfl)
  rw [State.after_cons (exec_startBit_starting hl hr), State.after_cons hkept, State.starting_withLink]
  rfl

/-- The good character that completes a frame hands the body over and restarts the keepalive timer. -/
theorem after_lastArrival {b len high : Byte} {got : List Byte}
    (ha : (s.links[l]).assembler = .check len got (some high)) (hb : [high, b] = checkBytes len got) :
    s.after [.startBit l, .characterReceived l (goodSamples (s.links[l]).format b)] =
      some (settle s ((s.withLink l ((s.links[l]).abandonFrame.placeFrame got)).restartKeepalive l)) := by
  have hlink := s.starting_link l
  have hx : Hlu.takeByte b { (s.starting l).links[l] with receiver := .startWait } =
      (s.links[l]).abandonFrame.placeFrame got := by
    rw [hlink, Hlu.takeByte_goodCheck (len := len) (high := high) (got := got) (by exact ha) hb,
      Hlu.started_abandonFrame hr]
  have hlast : exec (.characterReceived l (goodSamples (s.links[l]).format b)) (s.starting l) =
      .next (settle (s.starting l) (((s.starting l).withLink l
        (Hlu.takeByte b { (s.starting l).links[l] with receiver := .startWait })).restartKeepalive l)) :=
    exec_characterReceived_complete (s := s.starting l) (l := l) (f := (s.links[l]).format)
      (c := goodSamples (s.links[l]).format b) hl (by rw [hlink]; rfl) rfl (goodSamples_parity _ b) (by
        rw [hlink]
        exact (congrArg (Assembler.completes b) ha).trans (decide_eq_true hb))
  rw [hx, settle_congr (s := s) (pends_starting s l) rfl, State.starting_withLink] at hlast
  rw [State.after_cons (exec_startBit_starting hl hr), State.after_cons hlast]
  rfl

end

/-! ### A whole frame -/

theorem State.assembling_link (s : State) (l : LinkId) (a : Assembler) :
    (s.assembling l a).links[l] = { s.links[l] with assembler := a, gap := .running } :=
  State.withLink_links_self _ _ _

section
variable {s : State} {l : LinkId} (hl : s.live = true) (hr : (s.links[l]).receiver = .startWait)
include hl hr

/-- The same within a frame: only the assembler's state goes on. -/
theorem after_arrival_assembling {b : Byte} {a a' : Assembler}
    (ht : ∀ y : Hlu, y.assembler = a → y.takeByte b = y.continueFrame a') (hc : a.completes b = false)
    (rest : List Instr) :
    (s.assembling l a).after
        ([.startBit l, .characterReceived l (goodSamples (s.links[l]).format b)] ++ rest) =
      (s.assembling l a').after rest := by
  have hlink := s.assembling_link l a
  have hstep := after_arrival (s := s.assembling l a) (l := l) (b := b) (a := a') hl (by rw [hlink]; exact hr)
    (by rw [hlink]; exact ht) (by rw [hlink]; exact hc)
  rw [State.assembling_assembling, hlink] at hstep
  exact State.after_append hstep rest

/-- The body bytes of a frame are kept in their order, up to the length byte's number (R169). -/
theorem after_body {len : Byte} (got bytes : List Byte) (hne : bytes ≠ [])
    (hlen : got.length + bytes.length = len.toNat) (rest : List Instr) :
    (s.assembling l (.body len got)).after (arrivals l (s.links[l]).format bytes ++ rest) =
      (s.assembling l (.check len (got ++ bytes) none)).after rest := by
  induction bytes generalizing got with
  | nil => exact absurd rfl hne
  | cons b bs ih =>
    rw [List.length_cons] at hlen
    rw [arrivals_cons, List.append_assoc]
    cases bs with
    | nil =>
      exact after_arrival_assembling hl hr (fun y hy => Hlu.takeByte_lastBody hy hlen) rfl rest
    | cons c cs =>
      rw [List.length_cons] at hlen
      rw [after_arrival_assembling (a' := .body len (got ++ [b])) hl hr
        (fun y hy => Hlu.takeByte_body hy (by omega)) rfl, ih (got ++ [b]) (List.cons_ne_nil c cs)
          (by simp only [List.length_append, List.length_cons, List.length_nil]; omega), List.append_assoc]
      rfl

/-- From HUNT, the characters of a frame leave its body with the request slot and restart the keepalive timer. -/
theorem after_frame {body : List Byte} (ha : (s.links[l]).assembler = .hunt) (h2 : 2 ≤ body.length)
    (h250 : body.length ≤ 250) :
    s.after (arrivals l (s.links[l]).format (sentFrame body)) =
      some (settle s ((s.withLink l ((s.links[l]).abandonFrame.placeFrame body)).restartKeepalive l)) := by
  have hlen : (BitVec.ofNat 8 body.length).toNat = body.length := by
    rw [BitVec.toNat_ofNat, Nat.mod_eq_of_lt (by omega)]
  have hframe := sentFrame_eq body
  generalize BitVec.ofNat 8 body.length = len at hlen hframe
  obtain ⟨high, low, hcheck, hframe⟩ := hframe
  have hlink := s.assembling_link l (.check len body (some high))
  have hlast := after_lastArrival (s := s.assembling l (.check len body (some high))) (l := l) hl
    (by rw [hlink]; exact hr) (by rw [hlink]) hcheck
  rw [hlink, settle_congr (s := s) (pends_assembling s l _) rfl, State.assembling, State.withLink_withLink] at hlast
  rw [hframe, arrivals_cons, arrivals_cons, arrivals_append, arrivals_cons,
    State.after_append (after_arrival (a := .length) hl hr (fun y hy => Hlu.takeByte_sync (hy.trans ha))
      (by rw [ha]; rfl)),
    after_arrival_assembling (a' := .body len []) hl hr
      (fun y hy => Hlu.takeByte_length hy (by omega) (by omega)) rfl,
    after_body hl hr [] body (List.ne_nil_of_length_pos (by omega)) (by rw [hlen, List.length_nil, Nat.zero_add]),
    List.nil_append,
    after_arrival_assembling (a' := .check len body (some high)) hl hr (fun y hy => Hlu.takeByte_check hy) rfl]
  exact hlast

end

/-- A restarted keepalive timer makes no kind pend. -/
theorem quieter_restarted {s : State} {l : LinkId} {x : Hlu} (hc : x.causes = (s.links[l]).causes) :
    ((s.withLink l x).restartKeepalive l).quieter s := by
  refine quieter_of rfl rfl rfl (fun k hne => ?_) fun k y z hy hz hne => ?_
  · rw [State.restartKeepalive_links, State.withLink_links] at hne
    split at hne
    case isTrue hk => rwa [hk, ← hc]
    case isFalse => exact hne
  · simp only [Fin.getElem_fin] at hy hz
    rw [State.restartKeepalive, State.setSession_getElem] at hz
    split at hz
    case isTrue hk =>
      subst hk
      obtain ⟨y', hy', rfl⟩ := Option.map_eq_some_iff.mp hz
      cases hy.symm.trans hy'
      exact hne
    case isFalse =>
      cases hy.symm.trans hz
      exact hne

/-- Settles O37, by induction on the body: byte after byte joins the frame, and the check bytes agree because both ends
compute the same CRC-16. -/
theorem frameArrivesWhole : Obligations.FrameArrivesWhole := by
  intro s l body hl hr ha hg h2 h250
  have hframe := after_frame hl hr ha h2 h250
  have hx : (s.links[l]).abandonFrame = s.links[l] := by simp only [Hlu.abandonFrame, ← ha, ← hg]
  rw [hx] at hframe
  refine ⟨fun hs => ?_, fun hs => ?_⟩
  · rw [Hlu.placeFrame_of_empty hs] at hframe
    exact hframe.trans (congrArg some (settle_of_quieter (quieter_restarted rfl)))
  · rw [Hlu.placeFrame_of_held hs] at hframe
    exact hframe

end Sys2Proof.Machine
end

section
/-! PROOFS. References (R4, R76), CLAIM (R57) and RELEASE (R59, R60, R63). -/

namespace Sys2Proof.Machine
set_option Elab.async false

/-! ### Stale references -/

theorem describe_fits {n : Byte} {rest : List Byte} (hn : n.toNat ≤ 7) (hr : rest.length = 9 * n.toNat)
    (hi lo len : Byte) : Request.describe.fits (hi :: lo :: len :: n :: rest) = true := by
  rw [Request.fits_iff]
  exact Request.paramLength_describe_eq_some.mpr ⟨hi, lo, len, n, rest, rfl, hn, by simp only [List.length_cons]; omega⟩

theorem scanDr_fits {b1 b0 : Byte} {data : List Byte} (hd : data.length = (b1.toNat * 256 + b0.toNat + 7) / 8)
    (hi lo i1 i0 w1 w0 : Byte) :
    Request.scanDr.fits (hi :: lo :: b1 :: b0 :: i1 :: i0 :: w1 :: w0 :: data) = true := by
  rw [Request.fits_iff]
  exact Request.paramLength_scanDr_eq_some.mpr
    ⟨hi, lo, b1, b0, _, rfl, by simp only [List.length_cons]; omega⟩

theorem Polarity.ofByte_of_le {p : Byte} (h : p.toNat ≤ 1) :
    Polarity.ofByte p = some (if p = 0#8 then .assertHigh else .assertLow) := by
  rcases onoff_some h with rfl | rfl <;> rfl

theorem ReportMode.ofByte_of_le {m : Byte} (h : m.toNat ≤ 1) :
    ReportMode.ofByte m = some (if m = 0#8 then .assertOnly else .both) := by
  rcases onoff_some h with rfl | rfl <;> rfl

section
variable {s : State} {hi lo : Byte} (hn : s.named (hi.toNat * 256 + lo.toNat) = none)
include hn

theorem runClaim_of_named_none (l : LinkId) : runClaim l [hi, lo] s = s.refuse .badHandle := by
  simp only [runClaim, handleParam, readU16_def, Option.bind_some, hn]

theorem runRelease_of_named_none (l : LinkId) : runRelease l [hi, lo] s = s.refuse .badHandle := by
  simp only [runRelease, handleParam, readU16_def, Option.bind_some, hn]

theorem runUnbindEvent_of_named_none (l : LinkId) : runUnbindEvent l [hi, lo] s = s.refuse .badHandle := by
  simp only [runUnbindEvent, handleParam, readU16_def, hn]

theorem runDescribe_of_named_none {rest : List Byte} (ha : ∀ e ∈ editsOf rest, e.action.toNat ≤ 1) (l : LinkId)
    (len n : Byte) : runDescribe l (hi :: lo :: len :: n :: rest) s = s.refuse .badHandle := by
  have hany : ((editsOf rest).any fun e => decide (1 < e.action.toNat)) = false := by
    simpa only [List.any_eq_false, decide_eq_true_eq, Nat.not_lt] using ha
  simp only [runDescribe, hany, Bool.false_eq_true, if_false, readU16_def, hn]

theorem runScanIr_of_named_none {x : Byte} (hx : x.toNat ≤ 7) (l : LinkId) (i1 i0 w1 w0 : Byte) :
    runScanIr l [hi, lo, x, i1, i0, w1, w0] s = s.refuse .badHandle := by
  simp only [runScanIr, dif_pos (le7 hx), State.scanIrOf, readU16_def, hn]

theorem runScanDr_of_named_none (l : LinkId) (b1 b0 i1 i0 w1 w0 : Byte) (data : List Byte) :
    runScanDr l (hi :: lo :: b1 :: b0 :: i1 :: i0 :: w1 :: w0 :: data) s = s.refuse .badHandle := by
  simp only [runScanDr, State.scanDrOf, readU16_def, hn]

theorem runBindEvent_of_named_none {p m : Byte} (hp : p.toNat ≤ 1) (hm : m.toNat ≤ 1) (l : LinkId) (line : Byte) :
    runBindEvent l [hi, lo, line, p, m] s = s.refuse .badHandle := by
  simp only [runBindEvent, Polarity.ofByte_of_le hp, ReportMode.ofByte_of_le hm, readU16_def, hn]

end

section
variable {s : State} {l : LinkId} {t : Byte} (ht : s.ticketed l t.toNat = none)
include ht

theorem runFetch_of_ticketed_none : runFetch l [t] s = s.refuse .badTicket := by
  simp only [runFetch, oneByte, Option.bind_some, ht]

theorem runCancel_of_ticketed_none : runCancel l [t] s = s.refuse .badTicket := by
  simp only [runCancel, oneByte, Option.bind_some, ht]

end

/-- Settles O11: every block looks the reference up before its other checks and refuses on the spot. -/
theorem staleReferencesRefused : Obligations.StaleReferencesRefused := by
  intro s l seq hi lo ho
  refine ⟨fun hn => ⟨fun h => ?lookup, fun h => ?claim, fun h => ?release, fun h => ?unbindEvent,
    fun len h => ?describe, fun x i1 i0 w1 w0 hx h => ?scanIr, fun b1 b0 i1 i0 w1 w0 data hd h => ?scanDr,
    fun line p m hp hm h => ?bindEvent⟩, fun ht => ⟨fun h => ?fetch, fun h => ?cancel⟩⟩
  case lookup => exact answer_unchanged (q := .lookup) h rfl (.inl ho) (runLookup_of_named_none hn)
  case claim => exact answer_unchanged (q := .claim) h rfl (.inl ho) (runClaim_of_named_none hn l)
  case release => exact answer_unchanged (q := .release) h rfl (.inl ho) (runRelease_of_named_none hn l)
  case unbindEvent => exact answer_unchanged (q := .unbindEvent) h rfl (.inl ho) (runUnbindEvent_of_named_none hn l)
  case describe =>
    exact answer_unchanged (q := .describe) h (describe_fits (rest := []) (by decide) rfl hi lo len) (.inl ho)
      (runDescribe_of_named_none (rest := []) hn (by simp [editsOf]) l len 0#8)
  case scanIr =>
    exact answer_unchanged (q := .scanIr) h rfl (.inl ho) (runScanIr_of_named_none hn hx l i1 i0 w1 w0)
  case scanDr =>
    exact answer_unchanged (q := .scanDr) h (scanDr_fits hd hi lo i1 i0 w1 w0) (.inl ho)
      (runScanDr_of_named_none hn l b1 b0 i1 i0 w1 w0 data)
  case bindEvent =>
    exact answer_unchanged (q := .bindEvent) h rfl (.inl ho) (runBindEvent_of_named_none hn hp hm l line)
  case fetch => exact answer_unchanged (q := .fetch) h rfl (.inl ho) (runFetch_of_ticketed_none ht)
  case cancel => exact answer_unchanged (q := .cancel) h rfl (.inl ho) (runCancel_of_ticketed_none ht)

/-! ### CLAIM -/

theorem gate_of_returning {p : ChainPhase} (h : p = .resetting .returning) : p.gate = some .chainNotReady := by
  rw [h]; rfl

theorem gate_of_fault {p : ChainPhase} {k : FaultCause} (h : p = .fault k) : p.gate = some .chainFault := by
  rw [h]; rfl

section
variable {s : State} {l : LinkId} {hi lo : Byte} {i : SlotId} {r : TargetRecord}
  (hn : s.named (hi.toNat * 256 + lo.toNat) = some (i, r))
include hn

theorem runClaim_of_gate {o : OutcomeCode} (hg : (s.chains[r.chain]).phase.gate = some o) :
    runClaim l [hi, lo] s = s.refuse o := by
  simp only [runClaim, handleParam, readU16_def, Option.bind_some, hn, hg]

section
variable (hg : (s.chains[r.chain]).phase.gate = none)
include hg

theorem runClaim_of_available (hs : r.state = .available) :
    runClaim l [hi, lo] s = (s.withRecordState i r (.claimed l)).answerOk [] := by
  simp only [runClaim, handleParam, readU16_def, Option.bind_some, hn, hg, hs,
    withRecordState_eq (State.named_eq_some.mp hn).1]

theorem runClaim_of_claimed {o : SessionId} (hs : r.state = .claimed o) :
    runClaim l [hi, lo] s = if o = l then s.answerOk [] else s.refuse .claimed := by
  simp only [runClaim, handleParam, readU16_def, Option.bind_some, hn, hg, hs]

theorem runClaim_of_releasing (hs : r.state = .releasing) : runClaim l [hi, lo] s = s.refuse .releasing := by
  simp only [runClaim, handleParam, readU16_def, Option.bind_some, hn, hg, hs]

end

end

/-- Settles O15: the chain's phase decides first, then the record's state; only a claim changes anything but the
reply, and it may queue a NOTICE for a line already flagged. -/
theorem claimAnswers : Obligations.ClaimAnswers := by
  intro s l seq hi lo i r h ho hn
  refine ⟨fun hp => ?_, fun k hp => ?_, fun hp => ⟨fun hs => ?_, fun hs => ?_, fun o hne hs => ?_, fun hs => ?_⟩⟩
  · exact answer_unchanged (q := .claim) h rfl (.inl ho) (runClaim_of_gate hn (gate_of_returning hp))
  · exact answer_unchanged (q := .claim) h rfl (.inl ho) (runClaim_of_gate hn (gate_of_fault hp))
  · exact congrArg Host.Outcome.next
      (serve_answer (q := .claim) h rfl (.inl ho) (runClaim_of_available hn (gate_working hp) hs))
  · have hrun := runClaim_of_claimed (l := l) hn (gate_working hp) hs
    rw [if_pos rfl] at hrun
    exact answer_unchanged (q := .claim) h rfl (.inl ho) hrun
  · have hrun := runClaim_of_claimed (l := l) hn (gate_working hp) hs
    rw [if_neg hne] at hrun
    exact answer_unchanged (q := .claim) h rfl (.inl ho) hrun
  · exact answer_unchanged (q := .claim) h rfl (.inl ho) (runClaim_of_releasing hn (gate_working hp) hs)

/-! ### RELEASE -/

theorem runRelease_of_named {s : State} {hi lo : Byte} {i : SlotId} {r : TargetRecord}
    (hn : s.named (hi.toNat * 256 + lo.toNat) = some (i, r)) (l : LinkId) :
    runRelease l [hi, lo] s =
      if r.ownedBy l then (s.releaseClaim l i).answerOk [] else s.refuse .notOwner := by
  simp only [runRelease, handleParam, readU16_def, Option.bind_some, hn]

/-- The jobs a RELEASE frees: the session's QUEUED jobs of the record (R59). -/
def releaseFrees (l : SessionId) (h : Handle) : JobId → Job → Bool := fun _ x =>
  x.isQueued && decide (x.session = some l) && decide (x.kind.target = some h)

theorem Job.not_queued_of_running {x : Job} (h : x.isRunning = true) : x.isQueued = false := by
  simp only [Job.isRunning, decide_eq_true_eq] at h
  simp only [Job.isQueued, h]

/-- Freeing QUEUED jobs leaves the RUNNING ones. -/
theorem runningFor_freeJobs {s : State} {p : JobId → Job → Bool} (hp : ∀ j x, x.isRunning = true → p j x = false)
    (h : Handle) : (s.freeJobs p).runningFor h = s.runningFor h := by
  refine anyJob_freeJobs fun j x hx => hp j x ?_
  simp only [Bool.and_eq_true] at hx
  exact hx.1

theorem releaseFrees_of_running (l : SessionId) (h : Handle) (j : JobId) (x : Job) (hx : x.isRunning = true) :
    releaseFrees l h j x = false := by
  simp only [releaseFrees, Job.not_queued_of_running hx, Bool.false_and]

theorem ownedBy_eq_true {r : TargetRecord} {l : SessionId} : r.ownedBy l = true ↔ r.state.owner = some l := by
  simp only [TargetRecord.ownedBy, decide_eq_true_eq]

/-- An owned record is CLAIMED or SUSPECT. -/
theorem RecordState.of_owner {x : RecordState} {l : SessionId} (h : x.owner = some l) :
    x = .claimed l ∨ x = .suspect (some l) := by
  cases x with
  | claimed o => cases h; exact .inl rfl
  | suspect o => cases h; exact .inr rfl
  | available => cases h
  | releasing => cases h

/-- What the end of its owner's claim makes of a record (R60, R66). -/
theorem State.releasedState_of_owner {s : State} {i : SlotId} {r : TargetRecord} {l : SessionId}
    (h : r.state.owner = some l) :
    s.releasedState i r =
      if decide (r.state = .suspect (some l)) = true then .suspect none
      else if (s.runningFor (s.handleOf i) || decide (r.residentClass = some .held)) = true then .releasing
      else .available := by
  rcases RecordState.of_owner h with hs | hs <;> simp [State.releasedState, hs, TargetRecord.held]

theorem State.parksOnRelease_of_owner {s : State} {i : SlotId} {r : TargetRecord} {l : SessionId}
    (h : r.state.owner = some l) :
    s.parksOnRelease i r = true ↔
      decide (r.state = .suspect (some l)) = false ∧ s.runningFor (s.handleOf i) = false ∧
        decide (r.residentClass = some .held) = true := by
  rcases RecordState.of_owner h with hs | hs <;> simp [State.parksOnRelease, hs, TargetRecord.held]

/-- The record of one slot is the only one a release of it can park (R60). -/
theorem chainRecords_filter_parks {s : State} (hd : s.placesDistinct) {i : SlotId} {r : TargetRecord}
    (hr : (s.slots[i]).record = some r) (c : ChainId) :
    ((s.chainRecords c).filter fun ir => decide (ir.1 = i) && s.parksOnRelease ir.1 ir.2) =
      if c = r.chain ∧ s.parksOnRelease i r = true then [(i, r)] else [] := by
  rw [← chainRecords_filter_single hd hr (s.parksOnRelease i)]
  refine List.filter_congr fun ir _ => ?_
  by_cases hi : ir.1 = i
  · rw [hi]
  · simp only [hi, decide_false, Bool.false_and]

/-- The whole state after a RELEASE by the owner (R59, R60, R63). -/
theorem State.releaseClaim_eq {s : State} (hd : s.placesDistinct) {l : SessionId} {i : SlotId} {r : TargetRecord}
    (hr : (s.slots[i]).record = some r) (ho : r.state.owner = some l) :
    s.releaseClaim l i =
      { s.withRecordState i r
          (if decide (r.state = .suspect (some l)) = true then .suspect none
          else if (s.runningFor (s.handleOf i) || decide (r.residentClass = some .held)) = true then .releasing
          else .available) with
        jobs := Vector.ofFn fun j : JobId =>
          if s.jobFits (releaseFrees l (s.handleOf i)) j = true then (s.jobs[j]).freed else s.jobs[j]
        chains := Vector.ofFn fun c : ChainId =>
          { s.chains[c] with
            queue := (s.chains[c]).queue.filter fun j => !s.jobFits (releaseFrees l (s.handleOf i)) j
            parks := (s.chains[c]).parks ++
              if c = r.chain ∧ decide (r.state = .suspect (some l)) = false ∧
                  s.runningFor (s.handleOf i) = false ∧ decide (r.residentClass = some .held) = true
              then [s.handleOf i] else [] } } := by
  have hrun : (s.freeJobs (releaseFrees l (s.handleOf i))).runningFor (s.handleOf i) = s.runningFor (s.handleOf i) :=
    runningFor_freeJobs (releaseFrees_of_running l _) _
  change (s.freeJobs (releaseFrees l (s.handleOf i))).releaseRecords (fun k _ => decide (k = i)) = _
  generalize hu : s.freeJobs (releaseFrees l (s.handleOf i)) = u at hrun ⊢
  have hslots : u.slots = s.slots := by rw [← hu, State.freeJobs_slots]
  have hhandle : ∀ k, u.handleOf k = s.handleOf k := fun k => by rw [State.handleOf, hslots, State.handleOf]
  have hru : (u.slots[i]).record = some r := by rw [hslots]; exact hr
  refine state_ext (by simp [← hu]) (by simp [← hu]) (by simp [← hu]) (by simp [← hu]) (by simp [← hu])
    (by simp [← hu]) ?slots (by simp [← hu]) ?jobs ?chains (by simp [← hu]) (by simp [← hu])
  case slots =>
    refine vector_ext fun k => ?_
    rw [State.releaseRecords_getElem, State.withRecordState_getElem, hslots]
    by_cases hk : k = i
    · subst hk
      simp only [Fin.getElem_fin] at hr
      simp only [hr, decide_true, if_true, Option.map_some, State.releasedState_of_owner ho, hhandle, hrun]
    · simp only [hk, decide_false, Bool.false_eq_true, if_false, Option.map_id_fun', id_eq]
  case jobs =>
    refine vector_ext fun k => ?_
    simp only [State.releaseRecords_jobs, ← hu, State.freeJobs_getElem, Vector.getElem_ofFn, Fin.getElem_fin]
  case chains =>
    refine vector_ext fun c => ?_
    have hdu : u.placesDistinct := fun a b hab => by
      have := hd a b hab
      simpa only [State.samePlace, hslots] using this
    have hchain : u.chains[c.val] =
        { s.chains[c.val] with
          queue := (s.chains[c.val]).queue.filter fun j => !s.jobFits (releaseFrees l (s.handleOf i)) j } := by
      rw [← hu, State.freeJobs_chain]
    have hparks : u.parksOnRelease i r = true ↔
        decide (r.state = .suspect (some l)) = false ∧ s.runningFor (s.handleOf i) = false ∧
          decide (r.residentClass = some .held) = true := by
      rw [State.parksOnRelease_of_owner (s := u) ho, hhandle, hrun]
    rw [State.releaseRecords_chain, chainRecords_filter_parks hdu hru, hchain, Vector.getElem_ofFn]
    simp only [hparks, apply_ite (List.map _), List.map_cons, List.map_nil, hhandle, Fin.getElem_fin]

/-- A release takes owners and jobs away and flags nothing. -/
theorem quieter_releaseClaim {s : State} {l : SessionId} {i : SlotId} : (s.releaseClaim l i).quieter s := by
  refine quieter_records (fun l h => by simpa [State.releaseClaim] using h) (fun j x m h1 h2 h3 => ?_)
    (fun k _ => by simp [State.releaseClaim]) (fun k q m h1 h2 => ?_)
    (fun e h => ⟨by simpa [State.releaseClaim] using h, by simp [State.releaseClaim]⟩) (fun m x y h1 h2 h3 => ?_)
  · simp only [State.releaseClaim, State.releaseRecords_jobs, State.freeJobs_getElem] at h1
    split at h1
    · cases h1
    · exact ⟨x, h1, h2, h3⟩
  · simp only [State.releaseClaim, State.releaseRecords_getElem, State.freeJobs_slots, Option.map_eq_some_iff] at h1
    obtain ⟨q', hq, rfl⟩ := h1
    refine ⟨q', hq, ?_⟩
    split at h2
    · dsimp only at h2
      unfold State.releasedState at h2
      split at h2
      · cases h2
      · split at h2 <;> cases h2
    · exact h2
  · simp only [State.releaseClaim, State.releaseRecords_sessions, State.freeJobs_sessions, h1] at h2
    cases h2
    exact h3

/-- Settles O16: to the owner the whole state after the release, which makes no kind pending. -/
theorem releaseEndsClaim : Obligations.ReleaseEndsClaim := by
  intro s l seq hi lo i r h ho hn hd
  obtain ⟨hr, hh⟩ := State.named_eq_some.mp hn
  have hrun := runRelease_of_named hn l
  refine ⟨fun hown => ?_, fun hown => ?_⟩
  · rw [if_neg (mt ownedBy_eq_true.mp hown)] at hrun
    exact answer_unchanged (q := .release) h rfl (.inl ho) hrun
  · rw [if_pos (ownedBy_eq_true.mpr hown)] at hrun
    have hserve := serve_quiet (q := .release) h rfl (.inl ho) hrun quieter_releaseClaim
    rw [State.releaseClaim_eq hd hr hown, ← hh] at hserve
    exact congrArg Host.Outcome.next hserve

end Sys2Proof.Machine
end

section
/-! PROOFS. DESCRIBE (R68 to R72): its checks, its length step, and what it writes. -/

namespace Sys2Proof.Machine
set_option Elab.async false

/-! ### The edit list -/

theorem InstrClass.ofByte_isSome {b : Byte} : (InstrClass.ofByte b).isSome = true ↔ b.toNat ≤ 1 := by
  constructor
  · intro h
    unfold InstrClass.ofByte at h
    split at h
    case isTrue h0 => rw [h0]; decide
    case isFalse =>
      split at h
      case isTrue h1 => rw [h1]; decide
      case isFalse => cases h
  · intro h
    rcases onoff_some h with rfl | rfl <;> rfl

theorem InstrClass.ofByte_getD {b : Byte} (h : b.toNat ≤ 1) :
    (InstrClass.ofByte b).getD .inert = if b = 0#8 then .inert else .held := by
  rcases onoff_some h with rfl | rfl <;> rfl

theorem editsMalformed_eq_true {es : List Edit} : editsMalformed es = true ↔ editsIllFormed es := by
  have hcls : ∀ b : Byte, (InstrClass.ofByte b).isSome = false ↔ 1 < b.toNat := fun b => by
    rw [← Bool.not_eq_true, InstrClass.ofByte_isSome, Nat.not_le]
  simp only [editsMalformed, editsIllFormed, Bool.or_eq_true, List.any_eq_true, Bool.not_eq_true',
    Bool.and_eq_false_iff, Bool.and_eq_true, decide_eq_false_iff_not, decide_eq_true_eq, Nat.not_le, hcls, or_assoc]
  exact Iff.rfl

/-- A well-formed edit list leaves the same entry at each place in either reading (R71, R72). -/
theorem editEntries_getElem {es : List Edit} (h : ¬ editsIllFormed es) (r : TargetRecord) (k : Fin 7) :
    (editEntries r.entries es)[k] = r.entryAfter es k := by
  simp only [editEntries, TargetRecord.entryAfter, Fin.getElem_fin, Vector.getElem_ofFn]
  cases hf : es.find? fun e => decide (e.index = k.val + 1) with
  | none => rfl
  | some e =>
    have hmem := List.mem_of_find?_eq_some hf
    simp only [Edit.entry]
    by_cases ha : e.action = 1#8
    · have hcls : e.cls.toNat ≤ 1 := Nat.not_lt.mp fun hlt =>
        h (.inr (.inr ⟨e, hmem, ha, .inr (.inr hlt)⟩))
      rw [if_pos ha, if_pos ha, InstrClass.ofByte_getD hcls]
    · rw [if_neg ha, if_neg ha]

theorem editsResident_eq_true {r : TargetRecord} {es : List Edit} :
    editsResident r es = true ↔ r.editsItsResident es := by
  unfold editsResident TargetRecord.editsItsResident
  cases r.resident <;> simp

theorem editCodesOk_eq_true {es : List Edit} (h : ¬ editsIllFormed es) (r : TargetRecord) (m : Nat) :
    editCodesOk m (editEntries r.entries es) es = true ↔ ¬ r.codesClash m es := by
  have hplace : ∀ (e : Edit) (k : Fin 7),
      (decide (k.val + 1 = e.index) ||
        match (editEntries r.entries es)[k] with
        | some y => decide (y.code ≠ e.code)
        | none => true) = true ↔
      ¬ ∃ y : CatEntry, k.val + 1 ≠ e.index ∧ r.entryAfter es k = some y ∧ y.code = e.code := by
    intro e k
    rw [editEntries_getElem h]
    by_cases hk : k.val + 1 = e.index
    · simp [hk]
    · cases r.entryAfter es k <;> simp [hk]
  have hedit : ∀ e : Edit,
      (decide (e.action ≠ 1#8) ||
        (codeFits m e.code && decide (e.code ≠ onesCode m) &&
          (List.finRange 7).all fun k =>
            decide (k.val + 1 = e.index) ||
              match (editEntries r.entries es)[k] with
              | some y => decide (y.code ≠ e.code)
              | none => true)) = true ↔
      ¬ (e.action = 1#8 ∧
        (2 ^ m ≤ e.code.toNat ∨ e.code = BitVec.ofNat 32 (2 ^ m - 1) ∨
          ∃ (k : Fin 7) (y : CatEntry), k.val + 1 ≠ e.index ∧ r.entryAfter es k = some y ∧ y.code = e.code)) := by
    intro e
    rw [Bool.or_eq_true, Bool.and_eq_true, Bool.and_eq_true, List.all_eq_true, decide_eq_true_eq, codeFits,
      decide_eq_true_eq, decide_eq_true_eq, not_and_or, not_or, not_or, Nat.not_le, not_exists, and_assoc]
    simp only [hplace, List.mem_finRange, true_imp_iff]
    rfl
  unfold editCodesOk TargetRecord.codesClash
  rw [List.all_eq_true, not_exists]
  refine forall_congr' fun e => ?_
  rw [not_and]
  exact imp_congr_right fun _ => hedit e

section
variable {r : TargetRecord} {es : List Edit}

theorem editsRefused_of_no_length (hne : es ≠ []) : editsRefused r none es = some .notDescribed := by
  cases es with
  | nil => exact absurd rfl hne
  | cons => rfl

theorem editsRefused_of_resident {m : Nat} (hne : es ≠ []) (h : r.editsItsResident es) :
    editsRefused r (some m) es = some .resident := by
  cases es with
  | nil => exact absurd rfl hne
  | cons => simp only [editsRefused, editsResident_eq_true.mpr h, if_true]

theorem editsRefused_of_codes {m : Nat} (hne : es ≠ []) (hr : ¬ r.editsItsResident es) :
    editsRefused r (some m) es =
      if editCodesOk m (editEntries r.entries es) es then none else some .badEntry := by
  cases es with
  | nil => exact absurd rfl hne
  | cons => simp only [editsRefused, Bool.eq_false_iff.mpr (mt editsResident_eq_true.mp hr), Bool.false_eq_true, if_false]

end

/-! ### The checks in their order -/

theorem State.busyFor_eq_true {s : State} {h : Handle} : s.busyFor h = true ↔ s.jobWaits h := by
  simp only [State.busyFor, State.jobWaits, anyJob_eq_true, Bool.and_eq_true, Bool.not_eq_true', decide_eq_true_eq]

theorem runDescribe_of_bad_action {rest : List Byte} (h : ∃ e ∈ editsOf rest, 1 < e.action.toNat) (l : LinkId)
    (hi lo len n : Byte) (s : State) :
    runDescribe l (hi :: lo :: len :: n :: rest) s = s.refuse .badRequest := by
  have hany : ((editsOf rest).any fun e => decide (1 < e.action.toNat)) = true := by
    simpa only [List.any_eq_true, decide_eq_true_eq] using h
  simp only [runDescribe, hany, if_true]

theorem runDescribe_of_named {s : State} {hi lo : Byte} {i : SlotId} {r : TargetRecord} {rest : List Byte}
    (hn : s.named (hi.toNat * 256 + lo.toNat) = some (i, r)) (ha : ∀ e ∈ editsOf rest, e.action.toNat ≤ 1)
    (l : LinkId) (len n : Byte) :
    runDescribe l (hi :: lo :: len :: n :: rest) s = s.describeRecord l i r len.toNat (editsOf rest) := by
  have hany : ((editsOf rest).any fun e => decide (1 < e.action.toNat)) = false := by
    simpa only [List.any_eq_false, decide_eq_true_eq, Nat.not_lt] using ha
  simp only [runDescribe, hany, Bool.false_eq_true, if_false, readU16_def, hn]

section
variable {s : State} {l : SessionId} {i : SlotId} {r : TargetRecord} {n : Nat} {es : List Edit}

theorem describeRecord_of_gate {o : OutcomeCode} (hg : (s.chains[r.chain]).phase.gate = some o) :
    s.describeRecord l i r n es = s.refuse o := by
  simp only [State.describeRecord, hg]

section
variable (hg : (s.chains[r.chain]).phase.gate = none)
include hg

theorem describeRecord_of_not_owner (ho : r.state.owner ≠ some l) :
    s.describeRecord l i r n es = s.refuse .notOwner := by
  simp only [State.describeRecord, hg, Bool.eq_false_iff.mpr (mt ownedBy_eq_true.mp ho), Bool.not_false, if_true]

section
variable (ho : r.state.owner = some l)
include ho

theorem describeRecord_of_busy (hb : s.jobWaits (s.handleOf i)) :
    s.describeRecord l i r n es = s.refuse .chainBusy := by
  simp only [State.describeRecord, hg, ownedBy_eq_true.mpr ho, Bool.not_true, Bool.false_eq_true, if_false,
    State.busyFor_eq_true.mpr hb, if_true]

section
variable (hb : ¬ s.jobWaits (s.handleOf i))
include hb

theorem describeRecord_of_malformed (he : editsIllFormed es) : s.describeRecord l i r n es = s.refuse .badEntry := by
  simp only [State.describeRecord, hg, ownedBy_eq_true.mpr ho, Bool.not_true, Bool.false_eq_true, if_false,
    Bool.eq_false_iff.mpr (mt State.busyFor_eq_true.mp hb), editsMalformed_eq_true.mpr he, if_true]

section
variable (he : ¬ editsIllFormed es)
include he

theorem describeRecord_of_no_plan (hp : s.lengthPlan i r n = none) :
    s.describeRecord l i r n es = s.refuse .badLength := by
  simp only [State.describeRecord, hg, ownedBy_eq_true.mpr ho, Bool.not_true, Bool.false_eq_true, if_false,
    Bool.eq_false_iff.mpr (mt State.busyFor_eq_true.mp hb), Bool.eq_false_iff.mpr (mt editsMalformed_eq_true.mp he), hp]

variable {p : LengthPlan} (hp : s.lengthPlan i r n = some p)
include hp

theorem describeRecord_of_refused {o : OutcomeCode} (hr : editsRefused r (p.given.or r.irLength) es = some o) :
    s.describeRecord l i r n es = s.refuse o := by
  simp only [State.describeRecord, hg, ownedBy_eq_true.mpr ho, Bool.not_true, Bool.false_eq_true, if_false,
    Bool.eq_false_iff.mpr (mt State.busyFor_eq_true.mp hb), Bool.eq_false_iff.mpr (mt editsMalformed_eq_true.mp he), hp,
    hr]

theorem describeRecord_of_accepted (hr : editsRefused r (p.given.or r.irLength) es = none) :
    s.describeRecord l i r n es = (s.writeDescription i p es).answerOk [] := by
  simp only [State.describeRecord, hg, ownedBy_eq_true.mpr ho, Bool.not_true, Bool.false_eq_true, if_false,
    Bool.eq_false_iff.mpr (mt State.busyFor_eq_true.mp hb), Bool.eq_false_iff.mpr (mt editsMalformed_eq_true.mp he), hp,
    hr]

end
end
end
end
end

/-- Settles O18: each check by the equation of `describeRecord` for it, and a refusal changes nothing but the reply. -/
theorem describeRefused : Obligations.DescribeRefused := by
  intro s l seq hi lo len n rest ho hn7 hrest h es hd refuses
  have hfits := describe_fits hn7 hrest hi lo len
  have refuse : ∀ {o : OutcomeCode}, runDescribe l (hi :: lo :: len :: n :: rest) s = s.refuse o → refuses o :=
    fun hrun => answer_unchanged (q := .describe) h hfits (.inl ho) hrun
  refine ⟨fun hbad => refuse (runDescribe_of_bad_action hbad l hi lo len n s), fun ha => ⟨fun hn => ?_, fun i r hn => ?_⟩⟩
  · exact refuse (runDescribe_of_named_none hn ha l len n)
  · have refuse' : ∀ {o : OutcomeCode}, s.describeRecord l i r len.toNat es = s.refuse o → refuses o :=
      fun hrun => refuse ((runDescribe_of_named hn ha l len n).trans hrun)
    have hh : hd = s.handleOf i := (State.named_eq_some.mp hn).2
    refine ⟨fun hp => ?_, fun k hp => ?_, fun hw => ⟨fun hown => ?_, fun hown => ⟨fun hb => ?_, fun hb => ?_⟩⟩⟩
    · exact refuse' (describeRecord_of_gate (gate_of_returning hp))
    · exact refuse' (describeRecord_of_gate (gate_of_fault hp))
    · exact refuse' (describeRecord_of_not_owner (gate_working hw) hown)
    · exact refuse' (describeRecord_of_busy (gate_working hw) hown (hh ▸ hb))
    · rw [hh] at hb
      refine ⟨fun he => ?_, fun he => ⟨fun hp => ?_, fun p hp hne => ⟨fun hlen => ?_, fun m hm => ⟨fun hres => ?_,
        fun hres hclash => ?_⟩⟩⟩⟩
      · exact refuse' (describeRecord_of_malformed (gate_working hw) hown hb he)
      · exact refuse' (describeRecord_of_no_plan (gate_working hw) hown hb he hp)
      · exact refuse' (describeRecord_of_refused (gate_working hw) hown hb he hp
          (by rw [hlen]; exact editsRefused_of_no_length hne))
      · exact refuse' (describeRecord_of_refused (gate_working hw) hown hb he hp
          (by rw [hm]; exact editsRefused_of_resident hne hres))
      · refine refuse' (describeRecord_of_refused (gate_working hw) hown hb he hp ?_)
        rw [hm, editsRefused_of_codes hne hres, if_neg (mt (editCodesOk_eq_true he r m).mp (not_not.mpr hclash))]

/-! ### The length step -/

/-- The records of a chain other than the one in a slot. -/
def State.othersOf (s : State) (c : ChainId) (i : SlotId) : List (SlotId × TargetRecord) :=
  (s.chainRecords c).filter fun kr => decide (kr.1 ≠ i)

/-- The known lengths of the others with the given one (R69). -/
def State.knownSum (s : State) (c : ChainId) (i : SlotId) (n : Nat) : Nat :=
  ((s.othersOf c i).map fun kr => kr.2.irLength.getD 0).sum + n

/-- The others whose length is unknown. -/
def State.unknownOf (s : State) (c : ChainId) (i : SlotId) : List (SlotId × TargetRecord) :=
  (s.othersOf c i).filter fun kr => kr.2.irLength.isNone

theorem irLengthInRange_eq_true {n : Nat} : irLengthInRange n = true ↔ 2 ≤ n ∧ n ≤ 32 := by
  rw [irLengthInRange, Bool.and_eq_true, decide_eq_true_eq, decide_eq_true_eq]

theorem irLengthInRange_eq_false {n : Nat} : irLengthInRange n = false ↔ n < 2 ∨ 32 < n := by
  rw [← Bool.not_eq_true, irLengthInRange_eq_true, not_and_or, Nat.not_le, Nat.not_le]

section
variable {s : State} {i : SlotId} {r : TargetRecord} {n : Nat}

theorem lengthPlan_zero : s.lengthPlan i r 0 = some ⟨none, none⟩ := rfl

theorem lengthPlan_known {k : Nat} (hr : r.irLength = some k) (hn : n ≠ 0) :
    s.lengthPlan i r n = if k = n then some ⟨none, none⟩ else none := by
  simp only [State.lengthPlan, if_neg hn, hr]

variable (hr : r.irLength = none) (hn : n ≠ 0)
include hr hn

theorem lengthPlan_of_out_of_range (h : n < 2 ∨ 32 < n ∨ (s.chains[r.chain]).totalIr < s.knownSum r.chain i n) :
    s.lengthPlan i r n = none := by
  have hcond : (!irLengthInRange n || decide ((s.chains[r.chain]).totalIr < s.knownSum r.chain i n)) = true := by
    rw [Bool.or_eq_true, Bool.not_eq_true', irLengthInRange_eq_false, decide_eq_true_eq, or_assoc]
    exact h
  simp only [State.lengthPlan, if_neg hn, hr]
  exact if_pos hcond

variable (h2 : 2 ≤ n) (h32 : n ≤ 32) (hsum : s.knownSum r.chain i n ≤ (s.chains[r.chain]).totalIr)
include h2 h32 hsum

theorem lengthPlan_of_two_unknown {a b : SlotId × TargetRecord} {more : List (SlotId × TargetRecord)}
    (hu : s.unknownOf r.chain i = a :: b :: more) : s.lengthPlan i r n = some ⟨some n, none⟩ := by
  have hcond := irLengthInRange_eq_true.mpr ⟨h2, h32⟩
  simp only [State.knownSum, State.othersOf] at hsum
  simp only [State.unknownOf, State.othersOf] at hu
  simp only [State.lengthPlan, if_neg hn, hr, hcond, Nat.not_lt.mpr hsum, decide_false, Bool.not_true, Bool.or_self,
    Bool.false_eq_true, if_false, hu]

theorem lengthPlan_of_none_unknown (hu : s.unknownOf r.chain i = []) :
    s.lengthPlan i r n =
      if patternOk (s.chains[r.chain]).totalIr (s.chains[r.chain]).capture
          (lengthsWith (s.chainRecords r.chain) i n i n)
      then some ⟨some n, none⟩ else none := by
  have hcond := irLengthInRange_eq_true.mpr ⟨h2, h32⟩
  simp only [State.knownSum, State.othersOf] at hsum
  simp only [State.unknownOf, State.othersOf] at hu
  simp only [State.lengthPlan, if_neg hn, hr, hcond, Nat.not_lt.mpr hsum, decide_false, Bool.not_true, Bool.or_self,
    Bool.false_eq_true, if_false, hu]

theorem lengthPlan_of_one_unknown {j : SlotId} {q : TargetRecord} (hu : s.unknownOf r.chain i = [(j, q)]) {d : Nat}
    (hd : d = (s.chains[r.chain]).totalIr - s.knownSum r.chain i n) :
    s.lengthPlan i r n =
      if irLengthInRange d && patternOk (s.chains[r.chain]).totalIr (s.chains[r.chain]).capture
          (lengthsWith (s.chainRecords r.chain) i n j d)
      then some ⟨some n, some (j, d)⟩ else none := by
  subst hd
  have hcond := irLengthInRange_eq_true.mpr ⟨h2, h32⟩
  simp only [State.knownSum, State.othersOf] at hsum
  simp only [State.unknownOf, State.othersOf] at hu
  simp only [State.lengthPlan, if_neg hn, hr, hcond, Nat.not_lt.mpr hsum, decide_false, Bool.not_true, Bool.or_self,
    Bool.false_eq_true, if_false, hu]
  rfl

end

/-- The lengths as they would stand, the unknown ones filled in by `d` (R69, R70). -/
def State.lengthsFilled (s : State) (c : ChainId) (i : SlotId) (n d : Nat) : List Nat :=
  (s.chainRecords c).map fun kr => if kr.1 = i then n else kr.2.irLength.getD d

theorem lengthsWith_of_none_unknown (s : State) (c : ChainId) (i : SlotId) (n : Nat) :
    lengthsWith (s.chainRecords c) i n i n = s.lengthsFilled c i n 0 := by
  refine List.map_congr_left fun kr _ => ?_
  split <;> rfl

/-- The one unknown record takes the deduced length; every other has its own. -/
theorem lengthsWith_of_one_unknown {s : State} {c : ChainId} {i j : SlotId} {q : TargetRecord}
    (hu : s.unknownOf c i = [(j, q)]) (n d : Nat) :
    lengthsWith (s.chainRecords c) i n j d = s.lengthsFilled c i n d := by
  have hunknown : ∀ kr : SlotId × TargetRecord,
      kr ∈ s.unknownOf c i ↔ (kr ∈ s.chainRecords c ∧ kr.1 ≠ i) ∧ kr.2.irLength = none := fun kr => by
    simp only [State.unknownOf, State.othersOf, List.mem_filter, decide_eq_true_eq, Option.isNone_iff_eq_none]
  have hj := (hunknown (j, q)).mp (hu ▸ List.mem_singleton_self _)
  refine List.map_congr_left fun kr hkr => ?_
  by_cases hi : kr.1 = i
  · rw [if_pos hi, if_pos hi]
  · rw [if_neg hi, if_neg hi]
    by_cases hkj : kr.1 = j
    · have hslot := (State.chainRecords_sound hkr).1
      have hslotj := (State.chainRecords_sound hj.1.1).1
      rw [hkj, hslotj] at hslot
      cases hslot
      rw [if_pos hkj, hj.2, Option.getD_none]
    · have hsome : kr.2.irLength ≠ none := fun hnone => by
        have hmem := (hunknown kr).mpr ⟨⟨hkr, hi⟩, hnone⟩
        rw [hu, List.mem_singleton] at hmem
        exact hkj (congrArg Prod.fst hmem)
      obtain ⟨k, hk⟩ := Option.ne_none_iff_exists'.mp hsome
      rw [if_neg hkj, hk, Option.getD_some, Option.getD_some]

/-- Settles O19, by the number of records that the given length leaves unknown. -/
theorem describeLengthStep : Obligations.DescribeLengthStep := by
  intro s i r n x others sum unknown passes
  refine ⟨fun hn => hn ▸ lengthPlan_zero, fun k hk hn => ⟨fun h => ?_, fun h => ?_⟩, fun hr hn => ⟨fun h => ?_,
    fun h2 h32 hsum => ⟨fun hu => ?_, fun hu => ⟨fun hp => ?_, fun hp => ?_⟩, fun j q hu => ⟨fun hp => ?_,
    fun hp => ?_⟩⟩⟩⟩
  · rw [lengthPlan_known hk hn, if_pos h.symm]
  · rw [lengthPlan_known hk hn, if_neg (Ne.symm h)]
  · exact lengthPlan_of_out_of_range hr hn h
  · obtain ⟨a, b, more, hu'⟩ : ∃ a b more, s.unknownOf r.chain i = a :: b :: more := by
      match hm : s.unknownOf r.chain i with
      | [] | [_] => exact absurd (hu.trans_eq (congrArg List.length hm)) (by simp)
      | a :: b :: more => exact ⟨a, b, more, rfl⟩
    exact lengthPlan_of_two_unknown hr hn h2 h32 hsum hu'
  · rw [lengthPlan_of_none_unknown hr hn h2 h32 hsum hu, lengthsWith_of_none_unknown]
    exact if_pos hp
  · rw [lengthPlan_of_none_unknown hr hn h2 h32 hsum hu, lengthsWith_of_none_unknown]
    exact if_neg hp
  · obtain ⟨hd2, hd32, hpass⟩ := hp
    rw [lengthPlan_of_one_unknown hr hn h2 h32 hsum hu rfl, lengthsWith_of_one_unknown hu]
    refine if_pos ?_
    rw [Bool.and_eq_true]
    exact ⟨irLengthInRange_eq_true.mpr ⟨hd2, hd32⟩, hpass⟩
  · rw [lengthPlan_of_one_unknown hr hn h2 h32 hsum hu rfl, lengthsWith_of_one_unknown hu]
    refine if_neg fun hc => hp ?_
    rw [Bool.and_eq_true, irLengthInRange_eq_true, and_assoc] at hc
    exact hc

/-! ### What is written -/

/-- Rewriting records without giving one an owner makes no kind pending. -/
theorem quieter_mapRecords (s : State) {f : SlotId → TargetRecord → TargetRecord}
    (hf : ∀ i r l, (f i r).state.owner = some l → r.state.owner = some l) : (s.mapRecords f).quieter s := by
  refine quieter_records (fun _ h => by simpa using h) (fun j x _ h1 h2 h3 => ⟨x, by simpa using h1, h2, h3⟩)
    (fun i _ => by simp) (fun i r l h1 h2 => ?_) (fun _ h => by simpa using h) fun _ x y h1 h2 h3 => ?_
  · simp only [State.mapRecords_getElem, Option.map_eq_some_iff] at h1
    obtain ⟨q, hq, rfl⟩ := h1
    exact ⟨q, hq, hf i q l h2⟩
  · rw [State.mapRecords_sessions] at h2
    cases h1.symm.trans h2
    exact h3

theorem State.writeDescription_eq {s : State} {i : SlotId} {r : TargetRecord} {es : List Edit}
    (hr : (s.slots[i]).record = some r) (he : ¬ editsIllFormed es) (p : LengthPlan) :
    s.writeDescription i p es =
      { s with
        slots := Vector.ofFn fun k : SlotId =>
          ⟨(s.slots[k]).generation, (s.slots[k]).record.map fun q =>
            if k = i then
              { q with
                shape := match p.given with
                  | some m => .known m .host
                  | none => q.shape
                entries := Vector.ofFn fun m => r.entryAfter es m }
            else
              match p.deduced with
              | some (j, d) => if k = j then { q with shape := .known d .deduced } else q
              | none => q⟩ } := by
  refine congrArg (fun v => { s with slots := v }) (vector_ext fun k => ?_)
  rw [Vector.getElem_ofFn, Vector.getElem_ofFn]
  refine congrArg (RecordSlot.mk _) (Option.map_congr fun q hq => ?_)
  by_cases hk : k = i
  · subst hk
    cases hr.symm.trans hq
    have hentries : editEntries r.entries es = Vector.ofFn fun m => r.entryAfter es m :=
      vector_ext fun m => by
        rw [Vector.getElem_ofFn]
        exact editEntries_getElem he r m
    simp only [Fin.eta, if_true, hentries] <;> rfl
  · simp only [Fin.eta, hk, if_false] <;> rfl

theorem quieter_writeDescription (s : State) (i : SlotId) (p : LengthPlan) (es : List Edit) :
    (s.writeDescription i p es).quieter s := by
  refine quieter_mapRecords s fun k r l h => ?_
  split at h
  · exact h
  · split at h
    · split at h <;> exact h
    · exact h

/-- Settles O20: with every check passed the whole write is the answer's state, and no record gains an owner. -/
theorem describeWrites : Obligations.DescribeWrites := by
  intro s l seq hi lo len n rest i r p ho hn7 hrest h hn hw hown hb ha he hp hedits
  obtain ⟨hr, hh⟩ := State.named_eq_some.mp hn
  have hnone : editsRefused r (p.given.or r.irLength) (editsOf rest) = none := by
    by_cases hne : editsOf rest = []
    · rw [hne]; rfl
    · obtain ⟨m, hm, hres, hclash⟩ := hedits.resolve_left hne
      rw [hm, editsRefused_of_codes hne hres, if_pos ((editCodesOk_eq_true he r m).mpr hclash)]
  have hrun := (runDescribe_of_named hn ha l len n).trans
    (describeRecord_of_accepted (gate_working hw) hown (hh ▸ hb) he hp hnone)
  have hserve := serve_quiet (q := .describe) h (describe_fits hn7 hrest hi lo len) (.inl ho) hrun
    (quieter_writeDescription s i p _)
  rw [State.writeDescription_eq hr he] at hserve
  exact congrArg Host.Outcome.next hserve

end Sys2Proof.Machine
end

section
/-! PROOFS. The job requests: SCAN-IR (R80), SCAN-DR (R81), CHAIN-RESET (R82), FETCH (R96) and CANCEL (R94). -/

namespace Sys2Proof.Machine
set_option Elab.async false

/-! ### SCAN-IR -/

theorem TargetRecord.entry_succ (r : TargetRecord) {k : Fin 8} {m : Fin 7} (h : k.val = m.val + 1) :
    r.entry k = r.entries[m] := by
  simp only [TargetRecord.entry, h, Nat.add_one_ne_zero, dif_neg, not_false_eq_true, Nat.add_sub_cancel,
    Fin.getElem_fin]

theorem TargetRecord.entry_zero (r : TargetRecord) {k : Fin 8} (h : k.val = 0) : r.entry k = some r.bypass := by
  simp only [TargetRecord.entry, h, dif_pos]

section
variable {s : State} {l : SessionId} {h : Handle} {i : SlotId} {r : TargetRecord} {x : Fin 8} {idle wait : Nat}

theorem scanIrOf_of_gate (hn : s.named h = some (i, r)) {o : OutcomeCode}
    (hg : (s.chains[r.chain]).phase.gate = some o) : s.scanIrOf l h x idle wait = s.refuse o := by
  simp only [State.scanIrOf, hn, hg]

/-- On a chain that works, SCAN-IR's last three checks and the acceptance (R80). -/
theorem scanIrOf_of_working (hn : s.named h = some (i, r)) (hw : (s.chains[r.chain]).phase.working) :
    s.scanIrOf l h x idle wait =
      if !r.ownedBy l then s.refuse .notOwner
      else if r.irLength.isNone then s.refuse .notDescribed
      else if (r.entry x).isNone then s.refuse .badEntry
      else s.accept l r.chain (.ir h x) idle wait := by
  simp only [State.scanIrOf, hn, gate_working hw]

theorem scanIrOf_of_not_owner (hn : s.named h = some (i, r)) (hw : (s.chains[r.chain]).phase.working)
    (ho : r.state.owner ≠ some l) : s.scanIrOf l h x idle wait = s.refuse .notOwner := by
  rw [scanIrOf_of_working hn hw, Bool.eq_false_iff.mpr (mt ownedBy_eq_true.mp ho)]
  rfl

/-- To the owner SCAN-IR answers by the record's description (R80). -/
theorem scanIrOf_of_owner (hn : s.named h = some (i, r)) (hw : (s.chains[r.chain]).phase.working)
    (ho : r.state.owner = some l) :
    s.scanIrOf l h x idle wait =
      if r.irLength.isNone then s.refuse .notDescribed
      else if (r.entry x).isNone then s.refuse .badEntry
      else s.accept l r.chain (.ir h x) idle wait := by
  rw [scanIrOf_of_working hn hw, ownedBy_eq_true.mpr ho]
  rfl

end

theorem runScanIr_of_bad {x : Byte} (hx : 7 < x.toNat) (l : LinkId) (hi lo i1 i0 w1 w0 : Byte) (s : State) :
    runScanIr l [hi, lo, x, i1, i0, w1, w0] s = s.refuse .badRequest := by
  simp only [runScanIr, dif_neg (Nat.not_lt.mpr hx)]

theorem runScanIr_of_index {x : Byte} {k : Fin 8} (hx : x.toNat = k.val) (l : LinkId) (hi lo i1 i0 w1 w0 : Byte)
    (s : State) :
    runScanIr l [hi, lo, x, i1, i0, w1, w0] s =
      s.scanIrOf l (hi.toNat * 256 + lo.toNat) k (i1.toNat * 256 + i0.toNat) (w1.toNat * 256 + w0.toNat) := by
  have hlt : x.toNat < 8 := hx ▸ k.isLt
  have hk : (⟨x.toNat, hlt⟩ : Fin 8) = k := Fin.ext hx
  simp only [runScanIr, dif_pos hlt, hk, readU16_def]

/-- Settles O21: each check by its place in SCAN-IR, and behind the last the acceptance that every job request ends
in. -/
theorem scanIrEntersJob : Obligations.ScanIrEntersJob := by
  intro s l seq hi lo x i1 i0 w1 w0 ho h hd refuses
  have refuse : ∀ {o : OutcomeCode}, runScanIr l [hi, lo, x, i1, i0, w1, w0] s = s.refuse o → refuses o :=
    fun hrun => answer_unchanged (q := .scanIr) h rfl (.inl ho) hrun
  refine ⟨fun hx => refuse (runScanIr_of_bad hx l hi lo i1 i0 w1 w0 s), fun k hx => ⟨fun hn => ?_, fun i r hn => ?_⟩⟩
  · exact refuse (runScanIr_of_named_none hn (by omega) l i1 i0 w1 w0)
  · have hidx := runScanIr_of_index hx l hi lo i1 i0 w1 w0 s
    refine ⟨fun hp => ?_, fun f hp => ?_, fun hw => ⟨fun hown => ?_, fun hown => ⟨fun hir => ?_, fun hir =>
      ⟨fun hent => ?_, fun hent => ?_⟩⟩⟩⟩
    · exact refuse (hidx.trans (scanIrOf_of_gate hn (gate_of_returning hp)))
    · exact refuse (hidx.trans (scanIrOf_of_gate hn (gate_of_fault hp)))
    · exact refuse (hidx.trans (scanIrOf_of_not_owner hn hw hown))
    · refine refuse ((hidx.trans (scanIrOf_of_owner hn hw hown)).trans ?_)
      rw [hir]; rfl
    · obtain ⟨m, hm, hnone⟩ := hent
      refine refuse ((hidx.trans (scanIrOf_of_owner hn hw hown)).trans ?_)
      rw [if_neg (by simpa using hir), if_pos (by rw [TargetRecord.entry_succ r hm, hnone]; rfl)]
    · have hsome : ¬ (r.entry k).isNone = true := by
        rcases hent with hk | ⟨m, hm, hne⟩
        · rw [TargetRecord.entry_zero r hk]; exact Bool.false_ne_true
        · rw [TargetRecord.entry_succ r hm]; simpa using hne
      refine accept_enters (q := .scanIr) rfl h rfl ho ((hidx.trans (scanIrOf_of_owner hn hw hown)).trans ?_)
      rw [if_neg (by simpa using hir), if_neg hsome]

/-! ### SCAN-DR -/

section
variable {s : State} {l : SessionId} {h : Handle} {i : SlotId} {r : TargetRecord} {bits idle wait : Nat}
  {data : List Byte}

theorem scanDrOf_of_gate (hn : s.named h = some (i, r)) {o : OutcomeCode}
    (hg : (s.chains[r.chain]).phase.gate = some o) : s.scanDrOf l h bits data idle wait = s.refuse o := by
  simp only [State.scanDrOf, hn, hg]

theorem scanDrOf_of_not_owner (hn : s.named h = some (i, r)) (hw : (s.chains[r.chain]).phase.working)
    (ho : r.state.owner ≠ some l) : s.scanDrOf l h bits data idle wait = s.refuse .notOwner := by
  simp only [State.scanDrOf, hn, gate_working hw, Bool.eq_false_iff.mpr (mt ownedBy_eq_true.mp ho), Bool.not_false,
    if_true]

theorem scanDrOf_of_owner (hn : s.named h = some (i, r)) (hw : (s.chains[r.chain]).phase.working)
    (ho : r.state.owner = some l) :
    s.scanDrOf l h bits data idle wait =
      if bits = 0 ∨ 1024 < bits then s.refuse .badLength
      else s.accept l r.chain (.dr h (unpackBits bits data)) idle wait := by
  simp only [State.scanDrOf, hn, gate_working hw, ownedBy_eq_true.mpr ho, Bool.not_true, Bool.false_eq_true, if_false]
  rfl

end

theorem runScanDr_eq (l : LinkId) (hi lo b1 b0 i1 i0 w1 w0 : Byte) (data : List Byte) (s : State) :
    runScanDr l (hi :: lo :: b1 :: b0 :: i1 :: i0 :: w1 :: w0 :: data) s =
      s.scanDrOf l (hi.toNat * 256 + lo.toNat) (b1.toNat * 256 + b0.toNat) data (i1.toNat * 256 + i0.toNat)
        (w1.toNat * 256 + w0.toNat) := rfl

theorem unpackBits_length (n : Nat) (bytes : List Byte) : (unpackBits n bytes).length = n := by
  rw [unpackBits, List.length_map, List.length_range]

/-- Scan bit `k` is bit k mod 8 of byte k div 8 (R184). -/
theorem unpackBits_getElem? {n k : Nat} (hk : k < n) {bytes : List Byte} {b : Byte} (hb : bytes[k / 8]? = some b) :
    (unpackBits n bytes)[k]? = some (b.getLsbD (k % 8)) := by
  simp only [unpackBits, List.getElem?_map, List.getElem?_range hk, Option.map_some, List.getD_eq_getElem?_getD, hb,
    Option.getD_some]

/-- Settles O22: SCAN-DR keeps just the bits its length asks for, in the order of R184. -/
theorem scanDrEntersJob : Obligations.ScanDrEntersJob := by
  intro s l seq hi lo b1 b0 i1 i0 w1 w0 data hd bits ho hdata h refuses
  have hfits := scanDr_fits hdata hi lo i1 i0 w1 w0
  have hrun := runScanDr_eq l hi lo b1 b0 i1 i0 w1 w0 data s
  have refuse : ∀ {o : OutcomeCode},
      runScanDr l (hi :: lo :: b1 :: b0 :: i1 :: i0 :: w1 :: w0 :: data) s = s.refuse o → refuses o :=
    fun hr => answer_unchanged (q := .scanDr) h hfits (.inl ho) hr
  refine ⟨fun hn => refuse (runScanDr_of_named_none hn l b1 b0 i1 i0 w1 w0 data), fun i r hn =>
    ⟨fun hp => ?_, fun f hp => ?_, fun hw => ⟨fun hown => ?_, fun hown => ⟨fun hbits => ?_, fun h1 h2 => ?_⟩⟩⟩⟩
  · exact refuse (hrun.trans (scanDrOf_of_gate hn (gate_of_returning hp)))
  · exact refuse (hrun.trans (scanDrOf_of_gate hn (gate_of_fault hp)))
  · exact refuse (hrun.trans (scanDrOf_of_not_owner hn hw hown))
  · exact refuse (hrun.trans ((scanDrOf_of_owner hn hw hown).trans (if_pos hbits)))
  · refine ⟨unpackBits bits data, unpackBits_length bits data, fun k hk => ?_, ?_⟩
    · have hlt : k / 8 < data.length := by omega
      exact ⟨data[k / 8], List.getElem?_eq_getElem hlt, unpackBits_getElem? hk (List.getElem?_eq_getElem hlt)⟩
    · exact accept_enters (q := .scanDr) rfl h hfits ho
        (hrun.trans ((scanDrOf_of_owner hn hw hown).trans (if_neg (by omega))))

/-! ### CHAIN-RESET -/

theorem runChainReset_of_bad {b : Byte} (hb : 3 < b.toNat) (l : LinkId) (i1 i0 w1 w0 : Byte) (s : State) :
    runChainReset l [b, i1, i0, w1, w0] s = s.refuse .badRequest := by
  simp only [runChainReset, chainOf_none hb]

section
variable {s : State} {l : LinkId} {b i1 i0 w1 w0 : Byte} {c : ChainId} (hb : b.toNat = c.val)
include hb

theorem runChainReset_of_gate {o : OutcomeCode} (hg : (s.chains[c]).phase.resetGate = some o) :
    runChainReset l [b, i1, i0, w1, w0] s = s.refuse o := by
  simp only [runChainReset, chainOf_of hb, hg]

theorem runChainReset_of_working (hw : (s.chains[c]).phase.working) :
    runChainReset l [b, i1, i0, w1, w0] s =
      if s.othersOwn l c then s.refuse .chainBusy
      else s.accept l c .chainReset (i1.toNat * 256 + i0.toNat) (w1.toNat * 256 + w0.toNat) := by
  have hg : (s.chains[c]).phase.resetGate = none := by
    rcases hw with hp | ⟨x, hp⟩ <;> rw [hp] <;> rfl
  simp only [runChainReset, chainOf_of hb, hg, readU16_def]

end

/-- Settles O23: the chain's phase, then the owners on the chain, then the acceptance. -/
theorem chainResetEntersJob : Obligations.ChainResetEntersJob := by
  intro s l seq b i1 i0 w1 w0 ho h refuses
  have refuse : ∀ {o : OutcomeCode}, runChainReset l [b, i1, i0, w1, w0] s = s.refuse o → refuses o :=
    fun hrun => answer_unchanged (q := .chainReset) h rfl (.inl ho) hrun
  refine ⟨fun hb => refuse (runChainReset_of_bad hb l i1 i0 w1 w0 s), fun c hb => ?_⟩
  refine ⟨fun hp => ?_, fun d hp => ?_, fun e hp => ?_, fun f hp => ?_, fun hw => ⟨fun hown => ?_, fun hown => ?_⟩⟩
  · exact refuse (runChainReset_of_gate hb (by rw [hp]; rfl))
  · exact refuse (runChainReset_of_gate hb (by rw [hp]; rfl))
  · exact refuse (runChainReset_of_gate hb (by rw [hp]; rfl))
  · exact refuse (runChainReset_of_gate hb (by rw [hp]; rfl))
  · exact refuse ((runChainReset_of_working hb hw).trans (if_pos (State.othersOwn_eq_true.mpr hown)))
  · exact accept_enters (q := .chainReset) rfl h rfl ho
      ((runChainReset_of_working hb hw).trans (if_neg (mt State.othersOwn_eq_true.mp hown)))

/-! ### FETCH and CANCEL -/

theorem jobFits_slot {s : State} {j : JobId} {x : Job} (hx : (s.jobs[j]).job = some x) (k : JobId) :
    s.jobFits (fun k _ => decide (k = j)) k = decide (k = j) := by
  simp only [State.jobFits]
  by_cases hk : k = j
  · subst hk; rw [hx]
  · cases (s.jobs[k]).job <;> simp [hk]

/-- Freeing the job of one slot (R78). -/
theorem freeJobs_slot {s : State} {j : JobId} {x : Job} (hx : (s.jobs[j]).job = some x) :
    (s.freeJobs fun k _ => decide (k = j)) = s.withoutJob j := by
  refine state_ext (by simp [State.withoutJob]) (by simp [State.withoutJob]) (by simp [State.withoutJob])
    (by simp [State.withoutJob]) (by simp [State.withoutJob]) (by simp [State.withoutJob])
    (by simp [State.withoutJob]) (by simp [State.withoutJob]) ?jobs ?chains (by simp [State.withoutJob])
    (by simp [State.withoutJob])
  case jobs =>
    refine vector_ext fun k => ?_
    simp only [State.freeJobs_getElem, jobFits_slot hx, decide_eq_true_eq, State.withoutJob, set_getElem]
    by_cases hk : k = j
    · subst hk; rw [if_pos rfl, if_pos rfl]; rfl
    · rw [if_neg hk, if_neg hk]
  case chains =>
    refine vector_ext fun c => ?_
    simp only [State.freeJobs_chain, jobFits_slot hx, State.withoutJob, Vector.getElem_ofFn, Fin.getElem_fin,
      decide_not]

theorem quieter_freeJobs (s : State) (p : JobId → Job → Bool) : (s.freeJobs p).quieter s := by
  refine quieter_records (fun _ h => by simpa using h) (fun j x _ h1 h2 h3 => ?_) (fun _ _ => by simp)
    (fun i r _ h1 h2 => ⟨r, by simpa using h1, h2⟩) (fun _ h => by simpa using h) fun _ x y h1 h2 h3 => ?_
  · rw [State.freeJobs_getElem] at h1
    split at h1
    · cases h1
    · exact ⟨x, h1, h2, h3⟩
  · rw [State.freeJobs_sessions] at h2
    cases h1.symm.trans h2
    exact h3

theorem natOfBits_testBit (bits : List Bool) (k : Nat) : (natOfBits bits).testBit k = (bits[k]?).getD false := by
  induction bits generalizing k with
  | nil => simp [natOfBits]
  | cons b rest ih =>
    have hdiv : (b.toNat + 2 * natOfBits rest) / 2 = natOfBits rest := by cases b <;> simp <;> omega
    cases k with
    | zero => cases b <;> simp [natOfBits]
    | succ k => rw [natOfBits, Nat.testBit_succ, hdiv, ih, List.getElem?_cons_succ]

theorem packBits_length (bits : List Bool) : (packBits bits).length = (bits.length + 7) / 8 := by
  rw [packBits, List.length_map, List.length_range, byteCount]

/-- Scan bit `k` lies in bit k mod 8 of byte k div 8, and the high bits of the last byte are 0 (R184). -/
theorem packBits_getLsbD {bits : List Bool} {k : Nat} {b : Byte} (hb : (packBits bits)[k / 8]? = some b) :
    b.getLsbD (k % 8) = (bits[k]?).getD false := by
  have hk8 : k % 8 < 8 := Nat.mod_lt _ (by decide)
  simp only [packBits, List.getElem?_map, Option.map_eq_some_iff, List.getElem?_eq_some_iff, List.getElem_range] at hb
  obtain ⟨m, ⟨_, rfl⟩, rfl⟩ := hb
  rw [BitVec.getLsbD_ofNat, decide_eq_true hk8, Bool.true_and, natOfBits_testBit, List.getElem?_take_of_lt hk8,
    List.getElem?_drop, Nat.div_add_mod]

section
variable {s : State} {l : LinkId} {t : Byte} {j : JobId} {x : Job} (ht : s.ticketed l t.toNat = some (j, x))
include ht

theorem runFetch_of_not_done (hd : x.isDone = false) : runFetch l [t] s = s.refuse .notDone := by
  cases hs : x.status with
  | queued n => simp only [runFetch, oneByte, Option.bind_some, ht, hs]
  | running => simp only [runFetch, oneByte, Option.bind_some, ht, hs]
  | done o data => simp only [Job.isDone, hs, Bool.true_eq_false] at hd

theorem runFetch_of_done {o : JobOutcome} {data : List Bool} (hs : x.status = .done o data) :
    runFetch l [t] s = (s.withoutJob j).answerOk (fetchPayload x o data) := by
  simp only [runFetch, oneByte, Option.bind_some, ht, hs, freeJobs_slot (State.ticketed_eq_some.mp ht).1]

theorem runCancel_of_queued {n : Option Nat} (hs : x.status = .queued n) :
    runCancel l [t] s = (s.withoutJob j).answerOk [] := by
  simp only [runCancel, oneByte, Option.bind_some, ht, hs, freeJobs_slot (State.ticketed_eq_some.mp ht).1]

theorem runCancel_of_running (hs : x.status = .running) : runCancel l [t] s = s.refuse .inProgress := by
  simp only [runCancel, oneByte, Option.bind_some, ht, hs]

theorem runCancel_of_done {o : JobOutcome} {data : List Bool} (hs : x.status = .done o data) :
    runCancel l [t] s = s.refuse .tooLate := by
  simp only [runCancel, oneByte, Option.bind_some, ht, hs]

theorem quieter_withoutJob : (s.withoutJob j).quieter s := by
  rw [← freeJobs_slot (State.ticketed_eq_some.mp ht).1]
  exact quieter_freeJobs s _

end

/-- Settles O24: the captured bits are packed as R184 packs them, and a freed job makes no kind pending. -/
theorem fetchFreesDoneJob : Obligations.FetchFreesDoneJob := by
  intro s l seq t j x ho h ht
  refine ⟨fun hd => ?_, fun o data hs => ?_⟩
  · exact answer_unchanged (q := .fetch) h rfl (.inl ho) (runFetch_of_not_done ht hd)
  · exact ⟨packBits data, packBits_length data, fun k b hb => packBits_getLsbD hb, congrArg Host.Outcome.next
      (serve_quiet (q := .fetch) h rfl (.inl ho) (runFetch_of_done ht hs) (quieter_withoutJob ht))⟩

/-- Settles O25, by the state of the job. -/
theorem cancelFreesQueuedJob : Obligations.CancelFreesQueuedJob := by
  intro s l seq t j x ho h ht
  refine ⟨fun n hs => ?_, fun hs => ?_, fun o data hs => ?_⟩
  · exact congrArg Host.Outcome.next
      (serve_quiet (q := .cancel) h rfl (.inl ho) (runCancel_of_queued ht hs) (quieter_withoutJob ht))
  · exact answer_unchanged (q := .cancel) h rfl (.inl ho) (runCancel_of_running ht hs)
  · exact answer_unchanged (q := .cancel) h rfl (.inl ho) (runCancel_of_done ht hs)

end Sys2Proof.Machine
end

section
/-! PROOFS. RESCAN (R46, R47), PROFILE-ADD (R51, R53) and the Event Monitor's requests (R159 to R161). -/

namespace Sys2Proof.Machine
set_option Elab.async false

/-! ### RESCAN -/

theorem State.chainHasWork_eq_true {s : State} {c : ChainId} :
    s.chainHasWork c = true ↔
      ∃ (j : JobId) (y : Job), (s.jobs[j]).job = some y ∧ y.isDone = false ∧ y.chain = c := by
  simp only [State.chainHasWork, anyJob_eq_true, Bool.and_eq_true, Bool.not_eq_true', decide_eq_true_eq]

/-- A READY chain with work, a park or another session's record refuses RESCAN (R46). -/
def State.rescanBlocked (s : State) (l : SessionId) (c : ChainId) : Prop :=
  (∃ (j : JobId) (y : Job), (s.jobs[j]).job = some y ∧ y.isDone = false ∧ y.chain = c) ∨
    (s.chains[c]).parks ≠ [] ∨ s.ownedByOthers l c

theorem State.rescanAllowed_of_ready {s : State} {l : SessionId} {c : ChainId} (hp : (s.chains[c]).phase = .ready) :
    s.rescanAllowed l c = true ↔ ¬ s.rescanBlocked l c := by
  simp only [State.rescanAllowed, hp, Bool.and_eq_true, Bool.not_eq_true', ← Bool.not_eq_true,
    State.chainHasWork_eq_true, State.othersOwn_eq_true, State.rescanBlocked, not_or, List.isEmpty_iff, ne_eq, not_not,
    and_assoc]

/-- The line of a retired record is the one bound to a record of the chain (R17, R18). -/
theorem retire_line_eq (s : State) (c : ChainId) (e : LineId) :
    (s.retire c).lines[e.val] =
      if s.boundTo e (fun _ r => decide (r.chain = c)) = true then (s.lines[e]).unbound else s.lines[e] := by
  rw [State.retire_line]
  simp only [State.boundRecord, State.boundTo]
  obtain hb | ⟨h, hb⟩ := Option.eq_none_or_eq_some ((s.lines[e]).binding)
  · simp only [hb, Option.bind_none, Bool.false_eq_true, if_false]
    rfl
  · simp only [hb, Option.bind_some]
    obtain hn | ⟨⟨i, r⟩, hn⟩ := Option.eq_none_or_eq_some (s.named h)
    · simp only [hn, Option.map_none, Bool.false_eq_true, if_false]
      rfl
    · simp only [hn, Option.map_some, decide_eq_true_eq, Fin.getElem_fin]
      rfl

/-- What an accepted RESCAN leaves, table by table (R18, R47). -/
theorem State.rescanChain_eq (s : State) (c : ChainId) :
    s.rescanChain c =
      { s with
        sessions := s.told c (s.party c)
        slots := Vector.ofFn fun i : SlotId =>
          match (s.slots[i]).record with
          | some r =>
            if r.chain = c then
              ⟨if (s.slots[i]).generation = 2047 then 1 else (s.slots[i]).generation + 1, none⟩
            else s.slots[i]
          | none => s.slots[i]
        lines := Vector.ofFn fun e : LineId =>
          if s.boundTo e (fun _ r => decide (r.chain = c)) = true then (s.lines[e]).unbound else s.lines[e]
        chains := s.chains.set c
          { s.chains[c] with
            phase := .resetting .enumerate, targetCount := 0, totalIr := 0, capture := [],
            profileConflict := false, op := some (s.chains[c]).settings } } := by
  refine state_ext (by simp [State.rescanChain]) (by simp [State.rescanChain]) (by simp [State.rescanChain])
    (by simp [State.rescanChain]) (by simp [State.rescanChain]) ?sessions ?slots (by simp [State.rescanChain])
    (by simp [State.rescanChain]) ?chains ?lines (by simp [State.rescanChain])
  case sessions =>
    have hsessions : (s.rescanChain c).sessions = (s.tellParties c).sessions := by simp [State.rescanChain]
    rw [hsessions]
    exact State.tellParties_sessions_eq rfl fun _ => rfl
  case slots =>
    refine vector_ext fun k => ?_
    simp only [State.rescanChain, State.updChain_slots, State.retire_getElem, State.tellParties_slots,
      Vector.getElem_ofFn, Fin.getElem_fin]
    cases (s.slots[k.val]).record <;> rfl
  case chains =>
    refine vector_ext fun k => ?_
    simp only [State.rescanChain, State.updChain_getElem, State.retire_chains, State.tellParties_chains, set_getElem]
    rfl
  case lines =>
    refine vector_ext fun e => ?_
    rw [Vector.getElem_ofFn]
    exact retire_line_eq (s.tellParties c) c e

theorem runRescan_of_bad {b : Byte} (hb : 3 < b.toNat) (l : LinkId) (s : State) :
    runRescan l [b] s = s.refuse .badRequest := by
  simp only [runRescan, oneByte, Option.bind_some, chainOf_none hb]

section
variable {s : State} {l : LinkId} {b : Byte} {c : ChainId} (hb : b.toNat = c.val)
include hb

theorem runRescan_of_disabled (hp : (s.chains[c]).phase = .disabled) :
    runRescan l [b] s = s.refuse .chainDisabled := by
  simp only [runRescan, oneByte, Option.bind_some, chainOf_of hb, hp, if_true]

theorem runRescan_of_enabled (hp : (s.chains[c]).phase ≠ .disabled) :
    runRescan l [b] s =
      if s.rescanAllowed l c then (s.rescanChain c).answerOk [] else s.refuse .chainBusy := by
  simp only [runRescan, oneByte, Option.bind_some, chainOf_of hb, hp, if_false]

end

/-- Settles O26: the chain's phase decides; an accepted RESCAN's state is given table by table, and what it tells is in
the reply's notice byte. -/
theorem rescanRestartsChain : Obligations.RescanRestartsChain := by
  intro s l seq b ho h refuses
  have refuse : ∀ {o : OutcomeCode}, runRescan l [b] s = s.refuse o → refuses o :=
    fun hrun => answer_unchanged (q := .rescan) h rfl (.inl ho) hrun
  refine ⟨fun hb => refuse (runRescan_of_bad hb l s), fun c hb => ?_⟩
  intro x blocked
  refine ⟨fun hp => ?_, fun hp => ?_, fun hp hbl => ?_, fun hok => ?_⟩
  · exact refuse (runRescan_of_disabled hb hp)
  · have hcase : x.phase ≠ .disabled ∧ s.rescanAllowed l c = false := by
      rcases hp with ⟨d, hp⟩ | ⟨e, hp⟩ | ⟨y, hp⟩ <;> simp only [x] at hp ⊢ <;>
        simp only [State.rescanAllowed, hp, ne_eq, reduceCtorEq, not_false_eq_true, and_self]
    exact refuse ((runRescan_of_enabled hb hcase.1).trans (if_neg (Bool.eq_false_iff.mp hcase.2)))
  · have hne : x.phase ≠ .disabled := fun hd => nomatch hp.symm.trans hd
    exact refuse ((runRescan_of_enabled hb hne).trans
      (if_neg fun ha => (State.rescanAllowed_of_ready hp).mp ha hbl))
  · have hcase : x.phase ≠ .disabled ∧ s.rescanAllowed l c = true := by
      rcases hok with ⟨k, hp⟩ | ⟨hp, hbl⟩
      · have hphase : (s.chains[c]).phase = .fault k := hp
        exact ⟨fun hd => (nomatch hp.symm.trans hd), by simp only [State.rescanAllowed, hphase]⟩
      · exact ⟨fun hd => (nomatch hp.symm.trans hd), (State.rescanAllowed_of_ready hp).mpr hbl⟩
    have hserve := serve_answer (q := .rescan) h rfl (.inl ho)
      ((runRescan_of_enabled hb hcase.1).trans (if_pos hcase.2))
    rw [State.rescanChain_eq] at hserve
    exact congrArg Host.Outcome.next hserve

/-! ### PROFILE-ADD -/

/-- An entry list of 7 bytes each has as many entries as its count says (10.4.4). -/
theorem rawEntriesOf_length {n : Nat} {rest : List Byte} (h : rest.length = 7 * n) : (rawEntriesOf rest).length = n := by
  induction n generalizing rest with
  | zero =>
    rw [List.length_eq_zero_iff.mp h]
    rfl
  | succ n ih =>
    match rest, h with
    | _ :: _ :: _ :: _ :: _ :: _ :: _ :: more, h =>
      simp only [List.length_cons] at h
      rw [rawEntriesOf, List.length_cons, ih (by omega)]
    | [], h | [_], h | [_, _], h | [_, _, _], h | [_, _, _, _], h | [_, _, _, _, _], h | [_, _, _, _, _, _], h =>
      simp only [List.length_cons, List.length_nil] at h
      omega

/-- What makes one catalogue entry of a PROFILE-ADD malformed (R53). -/
def RawEntry.illFormed (len : Nat) (e : RawEntry) : Prop :=
  e.drLength < 1 ∨ 1024 < e.drLength ∨ 1 < e.cls.toNat ∨ 2 ^ len ≤ e.code.toNat ∨
    e.code = BitVec.ofNat 32 (2 ^ len - 1)

theorem RawEntry.wellFormed_eq_true {len : Nat} {e : RawEntry} : e.wellFormed len = true ↔ ¬ e.illFormed len := by
  simp only [RawEntry.wellFormed, RawEntry.illFormed, codeFits, Bool.and_eq_true, decide_eq_true_eq,
    InstrClass.ofByte_isSome, not_or, Nat.not_lt, Nat.not_le, and_assoc]
  exact Iff.rfl

theorem profileWellFormed_eq_true {len : Nat} {es : List RawEntry} :
    profileWellFormed len es = true ↔
      ¬ (len < 2 ∨ 32 < len ∨ 7 < es.length ∨ ¬ (es.map RawEntry.code).Nodup ∨ ∃ e ∈ es, e.illFormed len) := by
  simp only [profileWellFormed, Bool.and_eq_true, irLengthInRange_eq_true, decide_eq_true_eq, List.all_eq_true,
    RawEntry.wellFormed_eq_true, not_or, Nat.not_lt, not_not, not_exists, not_and, and_assoc]
  tauto

theorem entry_map_eq {len : Nat} {es : List RawEntry} (h : ∀ e ∈ es, ¬ e.illFormed len) :
    es.map RawEntry.entry =
      es.map fun e => ⟨e.code, e.drLength, if e.cls = 0#8 then .inert else .held⟩ := by
  refine List.map_congr_left fun e he => ?_
  have hcls : e.cls.toNat ≤ 1 := Nat.not_lt.mp fun hlt => h e he (.inr (.inr (.inl hlt)))
  rw [RawEntry.entry, InstrClass.ofByte_getD hcls]

theorem sameMatch_any {s : State} {value mask : Word32} {len : Nat} {entries : List CatEntry} :
    s.profiles.any (Profile.sameMatch ⟨value, mask, len, entries⟩) = true ↔
      ∃ p ∈ s.profiles, p.mask = mask ∧ p.value &&& mask = value &&& mask := by
  simp only [List.any_eq_true, Profile.sameMatch, Bool.and_eq_true, decide_eq_true_eq]
  refine exists_congr fun p => and_congr_right fun _ => ?_
  constructor
  · rintro ⟨rfl, hv⟩; exact ⟨rfl, hv.symm⟩
  · rintro ⟨rfl, hv⟩; exact ⟨rfl, hv.symm⟩

theorem profileAdd_fits {n : Byte} {rest : List Byte} (hr : rest.length = 7 * n.toNat)
    (v3 v2 v1 v0 m3 m2 m1 m0 len : Byte) :
    Request.profileAdd.fits ([v3, v2, v1, v0, m3, m2, m1, m0, len, n] ++ rest) = true := by
  rw [Request.fits_iff]
  exact Request.paramLength_profileAdd_eq_some.mpr
    ⟨[v3, v2, v1, v0, m3, m2, m1, m0, len], n, rest, rfl, rfl, by
      simp only [List.length_append, List.length_cons, List.length_nil]; omega⟩

/-- Settles O28: malformed, duplicate and full in order, and the appended entry makes no kind pending. -/
theorem profileAddAppends : Obligations.ProfileAddAppends := by
  intro s l seq v3 v2 v1 v0 m3 m2 m1 m0 len n rest ho hrest h value mask es malformed duplicate refuses
  have hfits := profileAdd_fits hrest v3 v2 v1 v0 m3 m2 m1 m0 len
  have hrun : runProfileAdd ([v3, v2, v1, v0, m3, m2, m1, m0, len, n] ++ rest) s =
      s.addProfile value mask len.toNat es := rfl
  have hwell : profileWellFormed len.toNat es = true ↔ ¬ malformed := by
    rw [profileWellFormed_eq_true, rawEntriesOf_length hrest]
    exact Iff.rfl
  have refuse : ∀ {o : OutcomeCode}, s.addProfile value mask len.toNat es = s.refuse o → refuses o :=
    fun hr => answer_unchanged (q := .profileAdd) h hfits (.inl ho) (hrun.trans hr)
  refine ⟨fun hm => ?_, fun hm hd => ?_, fun hm hd hfull => ?_, fun hm hd hroom => ?_⟩
  · refine refuse ?_
    simp only [State.addProfile, Bool.eq_false_iff.mpr fun hw => hwell.mp hw hm, Bool.not_false, if_true]
  · refine refuse ?_
    simp only [State.addProfile, hwell.mpr hm, Bool.not_true, Bool.false_eq_true, if_false, sameMatch_any.mpr hd, if_true]
  · refine refuse ?_
    have hlimit : Config.profileLimit ≤ s.profiles.length := hfull
    simp only [State.addProfile, hwell.mpr hm, Bool.not_true, Bool.false_eq_true, if_false,
      Bool.eq_false_iff.mpr (mt sameMatch_any.mp hd), hlimit, if_true]
  · have hlimit : ¬ Config.profileLimit ≤ s.profiles.length := Nat.not_le.mpr hroom
    have hentries : es.map RawEntry.entry = _ := entry_map_eq (len := len.toNat) fun e he hbad =>
      hm (.inr (.inr (.inr (.inr ⟨e, he, hbad⟩))))
    have hadd : s.addProfile value mask len.toNat es =
        State.answerOk { s with profiles := s.profiles ++ [⟨value, mask, len.toNat, es.map RawEntry.entry⟩] }
          [u8 s.profiles.length] := by
      simp only [State.addProfile, hwell.mpr hm, Bool.not_true, Bool.false_eq_true, if_false,
        Bool.eq_false_iff.mpr (mt sameMatch_any.mp hd), hlimit]
    have hserve := serve_quiet (q := .profileAdd) h hfits (.inl ho) (hrun.trans hadd)
      (quieter_same rfl rfl rfl rfl rfl)
    rw [hentries] at hserve
    exact congrArg Host.Outcome.next hserve

/-! ### BIND-EVENT -/

/-- Rewriting lines without setting a flag or rebinding a flagged line makes no kind pending. -/
theorem quieter_mapLines (s : State) {f : LineId → EventLine → EventLine}
    (hf : ∀ e x, (f e x).flag = true → x.flag = true ∧ (f e x).binding = x.binding) : (s.mapLines f).quieter s := by
  refine quieter_records (fun _ h => by simpa using h) (fun j x _ h1 h2 h3 => ⟨x, by simpa using h1, h2, h3⟩)
    (fun _ _ => by simp) (fun i r _ h1 h2 => ⟨r, by simpa using h1, h2⟩) (fun e he => ?_) fun _ x y h1 h2 h3 => ?_
  · rw [State.mapLines_getElem] at he ⊢
    exact hf e _ he
  · rw [State.mapLines_sessions] at h2
    cases h1.symm.trans h2
    exact h3

theorem State.lineTaken_eq_true {s : State} {l : SessionId} {e : LineId} :
    s.lineTaken l e = true ↔
      ∃ (k : Handle) (j : SlotId) (q : TargetRecord) (o : SessionId),
        (s.lines[e]).binding = some k ∧ s.named k = some (j, q) ∧ q.state.owner = some o ∧ o ≠ l := by
  have howner : ∀ q : TargetRecord,
      (q.state.owner.isSome && !q.ownedBy l) = true ↔ ∃ o, q.state.owner = some o ∧ o ≠ l := fun q => by
    cases ho : q.state.owner <;> simp [TargetRecord.ownedBy, ho]
  have hbound : s.lineTaken l e = true ↔
      ∃ q, s.boundRecord e = some q ∧ (q.state.owner.isSome && !q.ownedBy l) = true := by
    unfold State.lineTaken
    cases s.boundRecord e <;> simp
  simp only [hbound, State.boundRecord_eq_some, howner]
  constructor
  · rintro ⟨q, ⟨k, j, hk, hj⟩, o, ho, hne⟩; exact ⟨k, j, q, o, hk, hj, ho, hne⟩
  · rintro ⟨k, j, q, o, hk, hj, ho, hne⟩; exact ⟨q, ⟨k, j, hk, hj⟩, o, ho, hne⟩

theorem lineNumber_of {b : Byte} {e : LineId} (h : b.toNat = e.val) : lineNumber b = some e := by
  have hlt : b.toNat < 8 := h ▸ e.isLt
  rw [lineNumber, dif_pos hlt]
  exact congrArg some (Fin.ext h)

theorem lineNumber_none {b : Byte} (h : 7 < b.toNat) : lineNumber b = none :=
  dif_neg (by omega)

theorem quieter_bindLine (s : State) (h : Handle) (e : LineId) (p : Polarity) (m : ReportMode) :
    (s.bindLine h e p m).quieter s := by
  refine quieter_mapLines s fun k x hx => ?_
  split at hx
  case isTrue => cases hx
  case isFalse hk =>
    rw [if_neg hk]
    split at hx
    case isTrue => cases hx
    case isFalse hb => rw [if_neg hb]; exact ⟨hx, rfl⟩

section
variable {s : State} {l : LinkId} {hi lo b p m : Byte}

theorem runBindEvent_of_bad (h : 1 < p.toNat ∨ 1 < m.toNat) :
    runBindEvent l [hi, lo, b, p, m] s = s.refuse .badRequest := by
  have hne : ∀ {x : Byte}, 1 < x.toNat → x ≠ 0#8 ∧ x ≠ 1#8 := fun hx =>
    ⟨fun e => by rw [e] at hx; exact absurd hx (by decide), fun e => by rw [e] at hx; exact absurd hx (by decide)⟩
  rcases h with hp | hm
  · simp only [runBindEvent, Polarity.ofByte, if_neg (hne hp).1, if_neg (hne hp).2]
  · simp only [runBindEvent, ReportMode.ofByte, if_neg (hne hm).1, if_neg (hne hm).2]
    cases Polarity.ofByte p <;> rfl

variable (hp : p.toNat ≤ 1) (hm : m.toNat ≤ 1) {i : SlotId} {r : TargetRecord}
  (hn : s.named (hi.toNat * 256 + lo.toNat) = some (i, r))
include hp hm hn

theorem runBindEvent_of_not_owner (ho : r.state.owner ≠ some l) :
    runBindEvent l [hi, lo, b, p, m] s = s.refuse .notOwner := by
  simp only [runBindEvent, Polarity.ofByte_of_le hp, ReportMode.ofByte_of_le hm, readU16_def, hn,
    Bool.eq_false_iff.mpr (mt ownedBy_eq_true.mp ho), Bool.not_false, if_true]

variable (ho : r.state.owner = some l)
include ho

theorem runBindEvent_of_bad_line (hb : 7 < b.toNat) : runBindEvent l [hi, lo, b, p, m] s = s.refuse .badLine := by
  simp only [runBindEvent, Polarity.ofByte_of_le hp, ReportMode.ofByte_of_le hm, readU16_def, hn,
    ownedBy_eq_true.mpr ho, Bool.not_true, Bool.false_eq_true, if_false, lineNumber_none hb]

theorem runBindEvent_of_line {e : LineId} (hb : b.toNat = e.val) :
    runBindEvent l [hi, lo, b, p, m] s =
      if s.lineTaken l e then s.refuse .lineBound
      else
        (s.bindLine (hi.toNat * 256 + lo.toNat) e (if p = 0#8 then .assertHigh else .assertLow)
          (if m = 0#8 then .assertOnly else .both)).answerOk [] := by
  simp only [runBindEvent, Polarity.ofByte_of_le hp, ReportMode.ofByte_of_le hm, readU16_def, hn,
    ownedBy_eq_true.mpr ho, Bool.not_true, Bool.false_eq_true, if_false, lineNumber_of hb]

end

/-- Settles O30: polarity and mode, the handle, the owner, the line and its other owner in order; a line bound anew has
its flag clear, so no kind pends. -/
theorem bindEventBinds : Obligations.BindEventBinds := by
  intro s l seq hi lo b p m ho h hd refuses
  have refuse : ∀ {o : OutcomeCode}, runBindEvent l [hi, lo, b, p, m] s = s.refuse o → refuses o :=
    fun hrun => answer_unchanged (q := .bindEvent) h rfl (.inl ho) hrun
  refine ⟨fun hbad => refuse (runBindEvent_of_bad hbad), fun hp hm => ⟨fun hn => ?_, fun i r hn => ⟨fun hown => ?_,
    fun hown => ⟨fun hb => ?_, fun e hb => ⟨fun ht => ?_, fun ht => ?_⟩⟩⟩⟩⟩
  · exact refuse (runBindEvent_of_named_none hn hp hm l b)
  · exact refuse (runBindEvent_of_not_owner hp hm hn hown)
  · exact refuse (runBindEvent_of_bad_line hp hm hn hown hb)
  · exact refuse ((runBindEvent_of_line hp hm hn hown hb).trans (if_pos (State.lineTaken_eq_true.mpr ht)))
  · exact congrArg Host.Outcome.next (serve_quiet (q := .bindEvent) h rfl (.inl ho)
      ((runBindEvent_of_line hp hm hn hown hb).trans (if_neg (mt State.lineTaken_eq_true.mp ht)))
      (quieter_bindLine s _ e _ _))

/-! ### UNBIND-EVENT and EVENT-STATUS -/

theorem runUnbindEvent_of_named {s : State} {hi lo : Byte} {i : SlotId} {r : TargetRecord}
    (hn : s.named (hi.toNat * 256 + lo.toNat) = some (i, r)) (l : LinkId) :
    runUnbindEvent l [hi, lo] s =
      if r.ownedBy l then (s.unbindRecord (hi.toNat * 256 + lo.toNat)).answerOk [] else s.refuse .notOwner := by
  simp only [runUnbindEvent, handleParam, readU16_def, hn]

theorem quieter_unbindRecord (s : State) (h : Handle) : (s.unbindRecord h).quieter s := by
  refine quieter_mapLines s fun k x hx => ?_
  split at hx
  case isTrue => cases hx
  case isFalse hb => rw [if_neg hb]; exact ⟨hx, rfl⟩

theorem State.reportsLine_eq (s : State) (l : SessionId) :
    s.reportsLine l = fun e => s.boundTo e fun _ r => decide (r.state.owner = some l) := by
  funext e
  simp only [State.reportsLine, State.boundTo, State.boundRecord]
  cases (s.lines[e]).binding with
  | none => rfl
  | some h =>
    simp only [Option.bind_some]
    cases s.named h <;> rfl

/-- One EVENT-STATUS entry, byte by byte (10.4.4). -/
theorem State.eventEntry_eq (s : State) (e : LineId) :
    s.eventEntry e =
      [BitVec.ofNat 8 e.val, BitVec.ofNat 8 ((s.lines[e]).binding.getD 0 / 256),
        BitVec.ofNat 8 ((s.lines[e]).binding.getD 0), (s.lines[e]).polarity.byte, (s.lines[e]).mode.byte,
        (s.lines[e]).levelByte, if (s.lines[e]).flag = true then 1#8 else 0#8] := rfl

theorem quieter_reported (s : State) (l : SessionId) :
    (s.mapLines fun e x => if s.reportsLine l e then { x with flag := false } else x).quieter s := by
  refine quieter_mapLines s fun k x hx => ?_
  split at hx
  case isTrue => cases hx
  case isFalse hb => rw [if_neg hb]; exact ⟨hx, rfl⟩

/-- Settles O31: the owner's line goes, or its lines are reported and their flags cleared; neither makes a kind
pending. -/
theorem eventLinesUnbindAndReport : Obligations.EventLinesUnbindAndReport := by
  refine ⟨fun s l seq hi lo i r ho h hn => ⟨fun hown => ?_, fun hown => ?_⟩, fun s l seq ho h => ?_⟩
  · exact answer_unchanged (q := .unbindEvent) h rfl (.inl ho)
      ((runUnbindEvent_of_named hn l).trans (if_neg (mt ownedBy_eq_true.mp hown)))
  · exact congrArg Host.Outcome.next (serve_quiet (q := .unbindEvent) h rfl (.inl ho)
      ((runUnbindEvent_of_named hn l).trans (if_pos (ownedBy_eq_true.mpr hown))) (quieter_unbindRecord s _))
  · intro mine reported
    have hserve := serve_quiet (q := .eventStatus) (run := runEventStatus l) h rfl (.inl ho) rfl (quieter_reported s l)
    rw [State.reportedLines, State.reportsLine_eq, funext s.eventEntry_eq] at hserve
    refine (congrArg Host.Outcome.next hserve).trans ?_
    refine congrArg (fun bytes => Host.Outcome.next (State.responds _ l 0xD2#8 seq .ok (_ :: bytes))) ?_
    refine List.flatMap_congr fun e _ => ?_
    have hlevel : ∀ x : EventLine, x.levelByte = match x.taken with
        | .unsettled => 2#8
        | .high => if x.polarity = .assertHigh then 1#8 else 0#8
        | .low => if x.polarity = .assertLow then 1#8 else 0#8 := fun x => by
      rw [EventLine.levelByte]
      cases x.taken <;> cases x.polarity <;> rfl
    rw [hlevel] <;> rfl

end Sys2Proof.Machine
end

section
/-! PROOFS. The tick (R157, R158, R187), the end of a session (R135, R140, R142), and the wait limit (R90). -/

namespace Sys2Proof.Machine
set_option Elab.async false

/-! ### The tick -/

section
variable {x : EventLine} {v : Bool}

theorem EventLine.sample_of_taken (h : x.taken = levelOf v) : x.sample v = { x with candidate := none } := by
  rw [EventLine.sample, if_pos h]

theorem EventLine.sample_of_first (h : x.taken ≠ levelOf v) (hc : x.candidate ≠ some v) :
    x.sample v = { x with candidate := some v } := by
  rw [EventLine.sample, if_neg h, if_neg hc]

/-- A change sets the flag of a bound line under BOTH or when the line becomes asserted (R158). -/
theorem EventLine.reports_eq (x : EventLine) (v : Bool) :
    x.reports v =
      (x.binding.isSome && (decide (x.mode = .both) || decide (v = decide (x.polarity = .assertHigh)))) := by
  rw [EventLine.reports]
  cases x.mode <;> cases x.polarity <;> cases v <;> rfl

theorem EventLine.sample_of_second (h : x.taken ≠ levelOf v) (hc : x.candidate = some v) :
    x.sample v = { x with
      taken := levelOf v
      candidate := none
      flag := x.flag || (decide (x.taken ≠ .unsettled) && x.binding.isSome &&
        (decide (x.mode = .both) || decide (v = decide (x.polarity = .assertHigh)))) } := by
  rw [EventLine.sample, if_neg h, if_pos hc, EventLine.reports_eq, Bool.and_assoc]

end

theorem levelOf_eq (v : Bool) : levelOf v = if v = true then .high else .low := by
  cases v <;> rfl

theorem exec_eventLineSample {s : State} (hl : s.live = true) (ht : s.tickRunning = true) (pins : BitVec 8) :
    exec (.eventLineSample pins) s = .next (settle s (s.tick pins)) := by
  simp only [exec, execEventLineSample, hl, ht, Bool.and_self, if_true]

/-- A tick's count at a job (R90). -/
theorem Job.tick_eq_of_queued {x : Job} {n : Nat} (h : x.status = .queued (some n)) :
    x.tick = { x with status := .queued (some (if n < x.waitLimit then n + 1 else n)) } := by
  simp only [Job.tick, h, countTick]

theorem Job.tick_eq_self {x : Job} (h : ∀ n, x.status ≠ .queued (some n)) : x.tick = x := by
  unfold Job.tick
  split
  case h_1 n hn => exact absurd hn (h n)
  all_goals rfl

/-- Settles O32: the tick as it is defined, with the three branches of a line's sample. -/
theorem tickCountsAndSamples : Obligations.TickCountsAndSamples := by
  intro s pins hl ht
  refine ⟨(s.tick pins).lines, ?_, fun e => ?_⟩
  · rw [exec_eventLineSample hl ht]
    refine congrArg (fun u => Host.Outcome.next (settle s u)) ?_
    refine state_ext (by rfl) (by rfl) (by rfl) (by rfl) (by rfl) (by rfl) (by rfl) (by rfl) ?_ (by rfl) (by rfl)
      (by rfl)
    refine vector_ext fun j => ?_
    simp only [State.tick, State.sampleLines, State.mapLines_jobs, State.mapJobs_getElem, State.mapSessions_jobs,
      Vector.getElem_ofFn, Fin.getElem_fin]
    refine congrArg (JobSlot.mk _) (Option.map_congr fun x _ => ?_)
    split
    case h_1 n hn => exact Job.tick_eq_of_queued hn
    case h_2 hn => exact Job.tick_eq_self hn
  · intro v level asserts
    have hline : (s.tick pins).lines[e] = (s.lines[e]).sample v := by
      simp only [State.tick, State.sampleLines, Fin.getElem_fin, State.mapLines_getElem]
      rfl
    have hlevel : level = levelOf v := (levelOf_eq v).symm
    rw [hline, hlevel]
    exact ⟨EventLine.sample_of_taken, EventLine.sample_of_first, EventLine.sample_of_second⟩

/-! ### The end of a session -/

/-- Orphaning keeps every job but for its session. -/
theorem runningFor_orphaned (s : State) (l : SessionId) (h : Handle) :
    (s.mapJobs fun _ x => x.orphaned l).runningFor h = s.runningFor h := by
  rw [Bool.eq_iff_iff, State.runningFor, State.runningFor, anyJob_eq_true, anyJob_eq_true]
  refine exists_congr fun j => ?_
  simp only [Fin.getElem_fin, State.mapJobs_getElem, JobSlot.orphaned, Option.map_eq_some_iff]
  constructor
  · rintro ⟨_, ⟨y, hy, rfl⟩, hp⟩
    refine ⟨y, hy, ?_⟩
    split at hp <;> exact hp
  · rintro ⟨y, hy, hp⟩
    refine ⟨_, ⟨y, hy, rfl⟩, ?_⟩
    split <;> exact hp

theorem runningFor_endJobs (s : State) (l : SessionId) (h : Handle) : (s.endJobs l).runningFor h = s.runningFor h := by
  rw [State.endJobs, runningFor_orphaned, runningFor_freeJobs fun j x hx => ?_]
  rw [hx, Bool.not_true, Bool.and_false]

theorem State.releasedState_owner (s : State) (i : SlotId) (r : TargetRecord) : (s.releasedState i r).owner = none := by
  unfold State.releasedState
  split
  · rfl
  · split <;> rfl

theorem JobSlot.orphaned_of_job {x : JobSlot} {y : Job} {l : SessionId} (h : (x.orphaned l).job = some y) :
    ∃ z, x.job = some z ∧ y = if z.session = some l then { z with session := none } else z := by
  simp only [JobSlot.orphaned, Option.map_eq_some_iff] at h
  obtain ⟨z, hz, rfl⟩ := h
  exact ⟨z, hz, rfl⟩

/-- The end of a session takes jobs, owners and a queued NOTICE away and flags nothing. -/
theorem quieter_endSession (s : State) (l : SessionId) : (s.endSession l).quieter s := by
  refine quieter_records (fun k h => ?_) (fun j x m h1 h2 h3 => ?_) (fun k _ => by simp [State.endSession])
    (fun k q m h1 h2 => ?_) (fun e h => ⟨by simpa [State.endSession] using h, by simp [State.endSession]⟩)
    (fun m x y h1 h2 h3 => ?_)
  · simp only [State.endSession, State.updLink_getElem, State.setSession_links, State.releaseRecords_links,
      State.endJobs_links] at h
    split at h
    case isTrue hk => rw [hk]; exact h
    case isFalse => exact h
  · simp only [State.endSession, State.updLink_jobs, State.setSession_jobs, State.releaseRecords_jobs,
      State.endJobs_getElem] at h1
    split at h1
    · cases h1
    · obtain ⟨z, hz, rfl⟩ := JobSlot.orphaned_of_job h1
      split at h3
      · cases h3
      case isFalse hne =>
        rw [if_neg hne] at h2
        exact ⟨z, hz, h2, h3⟩
  · simp only [State.endSession, State.updLink_slots, State.setSession_slots, State.releaseRecords_getElem,
      State.endJobs_slots, Option.map_eq_some_iff] at h1
    obtain ⟨q', hq, rfl⟩ := h1
    refine ⟨q', hq, ?_⟩
    split at h2
    · rw [State.releasedState_owner] at h2; cases h2
    · exact h2
  · simp only [State.endSession, State.updLink_sessions, State.setSession_getElem, State.releaseRecords_sessions,
      State.endJobs_sessions] at h2
    split at h2
    · cases h2
    · cases h1.symm.trans h2
      exact h3

/-- The whole state after a session's end (R66, R98, R142). -/
theorem State.endSession_eq (s : State) (l : SessionId) : s.endSession l = s.withoutSession l := by
  have hrun := runningFor_endJobs s l
  have hslots : (s.endJobs l).slots = s.slots := State.endJobs_slots s l
  have hhandle : ∀ k, (s.endJobs l).handleOf k = s.handleOf k := fun k => by rw [State.handleOf, hslots, State.handleOf]
  refine state_ext (by simp [State.endSession, State.withoutSession]) (by simp [State.endSession, State.withoutSession])
    (by simp [State.endSession, State.withoutSession]) (by simp [State.endSession, State.withoutSession]) ?links
    ?sessions ?slots (by simp [State.endSession, State.withoutSession]) ?jobs ?chains
    (by simp [State.endSession, State.withoutSession]) (by simp [State.endSession, State.withoutSession])
  case links => simp [State.endSession, State.withoutSession, State.updLink]
  case sessions => simp [State.endSession, State.withoutSession, State.setSession]
  case slots =>
    refine vector_ext fun k => ?_
    simp only [State.endSession, State.updLink_slots, State.setSession_slots, State.releaseRecords_getElem, hslots,
      State.withoutSession, Vector.getElem_ofFn, Fin.getElem_fin]
    refine congrArg (RecordSlot.mk _) (Option.map_congr fun r _ => ?_)
    by_cases ho : r.state.owner = some l
    · rw [if_pos (ownedBy_eq_true.mpr ho), if_pos ho, State.releasedState_of_owner ho, hhandle, hrun]
      simp only [decide_eq_true_eq, Bool.or_eq_true]
      rfl
    · rw [if_neg (mt ownedBy_eq_true.mp ho), if_neg ho]
  case jobs =>
    refine vector_ext fun j => ?_
    simp only [State.endSession, State.updLink_jobs, State.setSession_jobs, State.releaseRecords_jobs,
      State.endJobs_getElem, State.withoutSession, Vector.getElem_ofFn, Fin.getElem_fin]
    rfl
  case chains =>
    refine vector_ext fun c => ?_
    have hparks : ∀ ir : SlotId × TargetRecord,
        (ir.2.ownedBy l && (s.endJobs l).parksOnRelease ir.1 ir.2) =
          (decide (ir.2.state.owner = some l) && decide (ir.2.state ≠ .suspect (some l)) &&
            !s.runningFor (s.handleOf ir.1) && decide (ir.2.residentClass = some .held)) := fun ir => by
      by_cases ho : ir.2.state.owner = some l
      · rw [Bool.eq_iff_iff, Bool.and_eq_true, State.parksOnRelease_of_owner ho, hhandle, hrun]
        simp [ownedBy_eq_true, ho, and_assoc]
      · simp [TargetRecord.ownedBy, ho]
    simp only [State.endSession, State.updLink_chains, State.setSession_chains, State.releaseRecords_chain,
      State.endJobs_chain, State.withoutSession, Vector.getElem_ofFn, Fin.getElem_fin,
      State.chainRecords_congr hslots, hparks, hhandle]
    rfl

theorem exec_closeSession {s : State} {l : LinkId} {seq : Byte} (ho : s.isOpen l) (h : s.asked l 0x02#8 seq []) :
    exec (.closeSession l) s =
      .next ((s.withoutSession l).handed l (replyBytes 0x82#8 seq .ok 0#8 []) none) := by
  have hclosed : (s.endSession l).sessions[l] = none := by
    simp only [State.endSession, State.updLink_sessions, Fin.getElem_fin, State.setSession_getElem, if_true]
  have hstore : ∀ body, (s.endSession l).store l seq body none = s.endSession l := fun body => by
    simp only [State.store, hclosed]
  have hfresh : s.fresh l (some .closeSession) seq [] (runClose l) =
      (s.endSession l).handed l (replyBytes 0x82#8 seq .ok 0#8 []) none := by
    rw [State.fresh, execute_run rfl (.inl ho)]
    exact congrArg (fun u => State.updLink u l _) (hstore _)
  have hquiet : ((s.endSession l).handed l (replyBytes 0x82#8 seq .ok 0#8 []) none).quieter s := fun k q hk hp =>
    quieter_endSession s l k q hk (by rwa [pends_handed] at hp)
  have hserve : s.serve l (some .closeSession) (runClose l) = _ :=
    serve_asked (code := Request.closeSession.code) h (some .closeSession) (Request.ofByte_code _) (runClose l)
  rw [hfresh, settle_of_quieter hquiet, State.endSession_eq] at hserve
  exact congrArg Host.Outcome.next hserve

theorem exec_keepaliveExpiry {s : State} {l : SessionId} {x : Session} (hl : s.live = true)
    (hx : s.sessions[l] = some x) :
    exec (.keepaliveExpiry l) s = .next (if x.expired then s.withoutSession l else s) := by
  simp only [exec, execKeepaliveExpiry, hx, hl, Bool.true_and]
  rw [settle_of_quieter (quieter_endSession s l), State.endSession_eq]

theorem Session.expired_eq_true {x : Session} :
    x.expired = true ↔ x.period ≠ 0 ∧ x.timer = some (x.period * 1000) := by
  rw [Session.expired, Bool.and_eq_true, decide_eq_true_eq, decide_eq_true_eq]
  exact Iff.rfl

/-- Settles O33: CLOSE and expiry end the session the same way, and no notice follows. -/
theorem sessionEnds : Obligations.SessionEnds := by
  intro s l
  refine ⟨fun seq ho h => exec_closeSession ho h, fun x hl hx => ⟨fun hp ht => ?_, fun h => ?_⟩⟩
  · rw [exec_keepaliveExpiry hl hx, if_pos (Session.expired_eq_true.mpr ⟨hp, ht⟩)]
  · rw [exec_keepaliveExpiry hl hx, if_neg fun he => ?_]
    obtain ⟨hp, ht⟩ := Session.expired_eq_true.mp he
    exact h.elim (absurd ht) hp

/-! ### The wait limit -/

theorem Job.expired_eq_true {x : Job} :
    x.expired = true ↔ x.waitLimit ≠ 0 ∧ x.status = .queued (some x.waitLimit) := by
  rw [Job.expired, Bool.and_eq_true, decide_eq_true_eq, decide_eq_true_eq]

theorem exec_waitLimitExpiry {s : State} {j : JobId} {x : Job} (hl : s.live = true) (hx : (s.jobs[j]).job = some x) :
    exec (.waitLimitExpiry j) s =
      .next (if x.expired then settle s (s.finishJob x.chain j .timeout []) else s) := by
  simp only [exec, execWaitLimitExpiry, hx, hl, Bool.true_and]

/-- A session's job that finishes is DONE and out of its queue (R91). -/
theorem State.finishJob_eq {s : State} {j : JobId} {x : Job} {l : SessionId} (hx : (s.jobs[j]).job = some x)
    (hs : x.session = some l) (c : ChainId) (o : JobOutcome) (data : List Bool) :
    s.finishJob c j o data =
      { s with
        jobs := s.jobs.set j ⟨(s.jobs[j]).generation, some { x with status := .done o data }⟩
        chains := s.chains.set c
          { s.chains[c] with queue := (s.chains[c]).queue.filter fun k => decide (k ≠ j) } } := by
  have hfinished : (s.jobs[j]).finished o data = ⟨(s.jobs[j]).generation, some { x with status := .done o data }⟩ := by
    simp only [JobSlot.finished, hx, hs, Option.isSome_some, if_true]
  rw [State.finishJob, hfinished]
  rfl

/-- Settles O34: the timer at its limit finishes the job, and at any other value the expiry is not taken. -/
theorem waitLimitTimesOut : Obligations.WaitLimitTimesOut := by
  intro s j x l hl hx hs
  rw [exec_waitLimitExpiry hl hx]
  refine ⟨fun hw hq => ?_, fun h => ?_⟩
  · rw [if_pos (Job.expired_eq_true.mpr ⟨hw, hq⟩), State.finishJob_eq hx hs]
  · rw [if_neg fun he => ?_]
    obtain ⟨hw, hq⟩ := Job.expired_eq_true.mp he
    exact h.elim (absurd hq) hw

end Sys2Proof.Machine
end

section
/-! PROOFS. Power-on (R186) and warm reset: the assertion of RESET_N (R188) and its release (R127). -/

namespace Sys2Proof.Machine
set_option Elab.async false

/-! ### Power-on -/

theorem replicate_eq_ofFn {α : Type} (n : Nat) (x : α) : Vector.replicate n x = Vector.ofFn fun _ => x :=
  vector_ext fun i => by simp

/-- A Chain Controller at the end of the internal reset, field by field (R29, R186). -/
theorem Chain.strapped_eq (enabled begun : Bool) :
    Chain.strapped enabled begun =
      { phase := if enabled = true then .resetting .enumerate else .disabled
        targetCount := 0, totalIr := 0, capture := [], profileConflict := false, settings := ⟨8, true⟩
        op := if enabled = true ∧ begun = true then some ⟨8, true⟩ else none
        queue := [], parks := [] } := by
  cases enabled <;> cases begun <;> rfl

/-- Settles O53: the two states are written out, table by table. -/
theorem powerOnValues : Obligations.PowerOnValues := by
  intro s
  refine ⟨⟨_, rfl, rfl, rfl, fun l => ?_, fun i => ?_, fun j => ?_, rfl⟩, fun straps high hp => ?_⟩
  · simp [State.reset]
  · simp [State.reset]
  · simp [State.reset]
  · simp only [exec, execInternalResetEnd, hp, if_true, State.poweredOn, State.reset, Chain.strapped_eq,
      replicate_eq_ofFn]
    rfl

/-! ### The assertion of RESET_N -/

theorem TargetRecord.warmState_eq (r : TargetRecord) (p : ChainPhase) : r.warmState p = r.afterReset p := by
  cases hs : r.state with
  | available => simp only [TargetRecord.warmState, TargetRecord.afterReset, hs]
  | suspect o => simp only [TargetRecord.warmState, TargetRecord.afterReset, hs]
  | claimed o => simp only [TargetRecord.warmState, TargetRecord.afterReset, hs, TargetRecord.held, decide_eq_true_eq]
  | releasing =>
    simp only [TargetRecord.warmState, TargetRecord.afterReset, hs, TargetRecord.held, decide_eq_true_eq]
    by_cases hp : p = .resetting .returning <;> simp [hp]

theorem ChainPhase.warm_eq (p : ChainPhase) : p.warm = p.afterReset := by
  cases p <;> rfl

theorem State.warmParks_eq (s : State) (c : ChainId) :
    s.warmParks c =
      if (s.chains[c]).phase = .ready then
        ((s.chainRecords c).filter fun ir => decide (ir.2.afterReset .ready = .releasing)).map
          fun ir => s.handleOf ir.1
      else [] := by
  simp only [State.warmParks, TargetRecord.warmState_eq]

section
variable (s : State)

@[simp] theorem State.warmReset_power : s.warmReset.power = s.power := by
  simp [State.warmReset, State.warmRecords]
@[simp] theorem State.warmReset_resetLow : s.warmReset.resetLow = true := rfl
@[simp] theorem State.warmReset_straps : s.warmReset.straps = s.straps := by
  simp [State.warmReset, State.warmRecords]
@[simp] theorem State.warmReset_tickRunning : s.warmReset.tickRunning = s.tickRunning := by
  simp [State.warmReset, State.warmRecords]
@[simp] theorem State.warmReset_links :
    s.warmReset.links = Vector.ofFn fun _ => Hlu.powerOn s.baseDivisor := rfl
@[simp] theorem State.warmReset_sessions : s.warmReset.sessions = Vector.ofFn fun _ => none := rfl
@[simp] theorem State.warmReset_slot (i : SlotId) :
    s.warmReset.slots[i.val] =
      ⟨(s.slots[i.val]).generation, (s.slots[i.val]).record.map fun r =>
        { r with state := r.warmState (s.chains[r.chain]).phase }⟩ := by
  unfold State.warmReset
  dsimp only
  rw [State.mapJobs_slots, State.mapChains_slots, State.warmRecords, State.mapRecords_getElem]
@[simp] theorem State.warmReset_profiles : s.warmReset.profiles = s.profiles := by
  simp [State.warmReset, State.warmRecords]
@[simp] theorem State.warmReset_job (j : JobId) :
    s.warmReset.jobs[j.val] = if (s.jobs[j.val]).job.isSome then (s.jobs[j.val]).freed else s.jobs[j.val] := by
  unfold State.warmReset
  dsimp only
  rw [State.mapJobs_getElem, State.mapChains_jobs, State.warmRecords, State.mapRecords_jobs]
@[simp] theorem State.warmReset_chain (c : ChainId) :
    s.warmReset.chains[c.val] =
      { s.chains[c.val] with
        phase := (s.chains[c.val]).phase.warm, op := none, queue := [], parks := s.warmParks c } := by
  unfold State.warmReset
  dsimp only
  rw [State.mapJobs_chains, State.mapChains_getElem, State.warmRecords, State.mapRecords_chains]
@[simp] theorem State.warmReset_lines :
    s.warmReset.lines = Vector.ofFn fun e : LineId => { s.lines[e] with candidate := none, flag := false } := rfl
@[simp] theorem State.warmReset_pending : s.warmReset.pending = s.pending := by
  simp [State.warmReset, State.warmRecords]

end

/-- A job slot after the assertion: freed where it held a job (R99). -/
theorem ite_isSome_freed (x : JobSlot) :
    (if x.job.isSome then x.freed else x) = if x.job = none then x else x.freed := by
  by_cases h : x.job = none
  · rw [if_pos h, if_neg (by rw [h]; exact Bool.false_ne_true)]
  · rw [if_neg h, if_pos (Option.isSome_iff_ne_none.mpr h)]

/-- Settles O54: the assertion is taken in every live state, at every block at once. -/
theorem warmReset : Obligations.WarmReset := by
  intro s hl
  have hexec : exec .resetNAssert s = .next s.warmReset := by
    simp only [exec, execResetNAssert, hl, if_true]
  rw [hexec]
  refine congrArg Host.Outcome.next (state_ext s.warmReset_power s.warmReset_resetLow s.warmReset_straps
    s.warmReset_tickRunning s.warmReset_links s.warmReset_sessions ?slots s.warmReset_profiles ?jobs ?chains
    s.warmReset_lines s.warmReset_pending)
  case slots =>
    refine vector_ext fun i => ?_
    rw [State.warmReset_slot, Vector.getElem_ofFn]
    simp only [TargetRecord.warmState_eq]
    rfl
  case jobs =>
    refine vector_ext fun j => ?_
    rw [State.warmReset_job, ite_isSome_freed, Vector.getElem_ofFn]
    rfl
  case chains =>
    refine vector_ext fun c => ?_
    rw [State.warmReset_chain, Vector.getElem_ofFn, ChainPhase.warm_eq, State.warmParks_eq]
    rfl

/-! ### While in reset, and the release -/

theorem exec_row_of_not_live {s : State} (hl : s.live = false) (q : Request) (l : LinkId) :
    exec (q.row l) s = .next s := by
  obtain ⟨t, he, rfl | ⟨h, _⟩⟩ := exec_row_cases q s l
  · exact he
  · rw [hl] at h; cases h

theorem exec_unknownCommand_of_not_live {s : State} (hl : s.live = false) (l : LinkId) :
    exec (.unknownCommand l) s = .next s := by
  obtain ⟨t, he, rfl | ⟨h, _⟩⟩ := exec_unknown_cases s l
  · exact he
  · rw [hl] at h; cases h

section
variable {s : State} (hl : s.live = false)
include hl

/-- An event of a link that needs the live part changes nothing (R186, R188). -/
theorem exec_link_of_not_live (l : LinkId) (x : CharSamples) :
    ∀ i ∈ [Instr.characterReceived l x, .breakTaken l, .gapExpiry l, .replyStart l, .replyEnd l, .noticeStart l,
      .noticeEnd l, .lineAtMarking l, .startBit l, .startBitNoise l], exec i s = .next s := by
  simp only [List.mem_cons, List.not_mem_nil, or_false, forall_eq_or_imp, forall_eq]
  refine ⟨?_, ?_, ?_, ?_, ?_, ?_, ?_, ?_, ?_, ?_⟩
  · simp only [exec, execCharacterReceived, hl, Bool.false_eq_true, if_false]; split <;> rfl
  · simp only [exec, execBreakTaken, hl, Bool.false_eq_true, if_false]; split <;> rfl
  · simp only [exec, execGapExpiry, hl, Bool.false_and, Bool.false_eq_true, if_false]
  · simp only [exec, execReplyStart, hl, Bool.false_and, Bool.false_eq_true, if_false]; split <;> rfl
  · simp only [exec, execReplyEnd, hl, Bool.false_eq_true, if_false]; split <;> rfl
  · simp only [exec, execNoticeStart, hl, Bool.false_and, Bool.false_eq_true, if_false]
  · simp only [exec, execNoticeEnd, hl, Bool.false_eq_true, if_false]; split <;> rfl
  · simp only [exec, execLineAtMarking, hl, Bool.false_and, Bool.false_eq_true, if_false]
  · simp only [exec, execStartBit, hl, Bool.false_and, Bool.false_eq_true, if_false]
  · simp only [exec, execStartBitNoise, hl, Bool.false_eq_true, if_false]; split <;> rfl

/-- So does an expiry, a tick and the assertion itself. -/
theorem exec_timer_of_not_live (l : SessionId) (j : JobId) (pins : BitVec 8) :
    ∀ i ∈ [Instr.keepaliveExpiry l, .waitLimitExpiry j, .eventLineSample pins, .resetNAssert], exec i s = .next s := by
  simp only [List.mem_cons, List.not_mem_nil, or_false, forall_eq_or_imp, forall_eq]
  refine ⟨?_, ?_, ?_, ?_⟩
  · simp only [exec, execKeepaliveExpiry, hl, Bool.false_and, Bool.false_eq_true, if_false]; split <;> rfl
  · simp only [exec, execWaitLimitExpiry, hl, Bool.false_and, Bool.false_eq_true, if_false]; split <;> rfl
  · simp only [exec, execEventLineSample, hl, Bool.false_and, Bool.false_eq_true, if_false]
  · simp only [exec, execResetNAssert, hl, Bool.false_eq_true, if_false]

/-- So does an event of a chain. -/
theorem exec_chain_of_not_live (c : ChainId) (d : List Bool) :
    ∀ i ∈ [Instr.grant c, .scanCompletion c d, .chainResetCompletion c, .returnCompletion c, .testResetComplete c,
      .idRead c d, .irMeasure c d, .bypassCount c d, .closingAction c], exec i s = .next s := by
  simp only [List.mem_cons, List.not_mem_nil, or_false, forall_eq_or_imp, forall_eq]
  refine ⟨?_, ?_, ?_, ?_, ?_, ?_, ?_, ?_, ?_⟩
  · simp only [exec, execGrant, hl, Bool.false_and, Bool.false_eq_true, if_false]
  · simp only [exec, execScanCompletion, hl, Bool.false_and, Bool.false_eq_true, if_false]; split <;> rfl
  · simp only [exec, execChainResetCompletion, hl, Bool.false_eq_true, if_false]
    split
    · split <;> rfl
    · rfl
  · simp only [exec, execReturnCompletion, hl, Bool.false_and, Bool.false_eq_true, if_false]
  · simp only [exec, execTestResetComplete, hl, Bool.false_and, Bool.false_eq_true, if_false]
  · simp only [exec, execIdRead, hl, Bool.false_and, Bool.false_eq_true, if_false]; split <;> rfl
  · simp only [exec, execIrMeasure, hl, Bool.false_and, Bool.false_eq_true, if_false]; split <;> rfl
  · simp only [exec, execBypassCount, hl, Bool.false_and, Bool.false_eq_true, if_false]; split <;> rfl
  · simp only [exec, execClosingAction, hl, Bool.false_eq_true, if_false]; split <;> rfl

/-- Outside the live part only the commands of reset act (R186, R188). -/
theorem exec_of_not_live (i : Instr) (hpower : i ≠ .powerOn) (hend : ∀ straps high, i ≠ .internalResetEnd straps high)
    (hrelease : i ≠ .resetNRelease) : exec i s = .next s := by
  have link := fun l x => exec_link_of_not_live hl l x
  have timer := fun l j pins => exec_timer_of_not_live hl l j pins
  have chain := fun c d => exec_chain_of_not_live hl c d
  revert hpower hend hrelease
  exact instr_cases (P := fun i => i ≠ .powerOn → (∀ straps high, i ≠ .internalResetEnd straps high) →
      i ≠ .resetNRelease → exec i s = .next s)
    (request := fun q l _ _ _ => exec_row_of_not_live hl q l)
    (unknownCommand := fun l _ _ _ => exec_unknownCommand_of_not_live hl l)
    (powerOn := fun h => absurd rfl h)
    (internalResetEnd := fun x b _ h => absurd rfl (h x b))
    (resetNRelease := fun _ _ h => absurd rfl h)
    (resetNAssert := fun _ _ _ => timer 0 0 0#8 _ (by simp))
    (keepaliveExpiry := fun l _ _ _ => timer l 0 0#8 _ (by simp))
    (waitLimitExpiry := fun j _ _ _ => timer 0 j 0#8 _ (by simp))
    (eventLineSample := fun p _ _ _ => timer 0 0 p _ (by simp))
    (characterReceived := fun l x _ _ _ => link l x _ (by simp))
    (breakTaken := fun l _ _ _ => link l ⟨0#8, true, true, false⟩ _ (by simp))
    (gapExpiry := fun l _ _ _ => link l ⟨0#8, true, true, false⟩ _ (by simp))
    (replyStart := fun l _ _ _ => link l ⟨0#8, true, true, false⟩ _ (by simp))
    (replyEnd := fun l _ _ _ => link l ⟨0#8, true, true, false⟩ _ (by simp))
    (noticeStart := fun l _ _ _ => link l ⟨0#8, true, true, false⟩ _ (by simp))
    (noticeEnd := fun l _ _ _ => link l ⟨0#8, true, true, false⟩ _ (by simp))
    (lineAtMarking := fun l _ _ _ => link l ⟨0#8, true, true, false⟩ _ (by simp))
    (startBit := fun l _ _ _ => link l ⟨0#8, true, true, false⟩ _ (by simp))
    (startBitNoise := fun l _ _ _ => link l ⟨0#8, true, true, false⟩ _ (by simp))
    (grant := fun c _ _ _ => chain c [] _ (by simp))
    (scanCompletion := fun c d _ _ _ => chain c d _ (by simp))
    (chainResetCompletion := fun c _ _ _ => chain c [] _ (by simp))
    (returnCompletion := fun c _ _ _ => chain c [] _ (by simp))
    (testResetComplete := fun c _ _ _ => chain c [] _ (by simp))
    (idRead := fun c d _ _ _ => chain c d _ (by simp))
    (irMeasure := fun c d _ _ _ => chain c d _ (by simp))
    (bypassCount := fun c d _ _ _ => chain c d _ (by simp))
    (closingAction := fun c _ _ _ => chain c [] _ (by simp))
    i

end

theorem exec_resetNRelease (s : State) :
    exec .resetNRelease s = .next
      (if decide (s.power = .operating) && s.resetLow then
        { (s.mapChains fun _ x => x.resume) with resetLow := false, tickRunning := true }
      else s) := rfl

/-- Settles O55: outside the live part every other command asks for it, and the release resumes the chains that are
RESETTING. -/
theorem resetIsReleased : Obligations.ResetIsReleased := by
  intro s
  refine ⟨fun i hl h1 h2 h3 => exec_of_not_live hl i h1 h2 h3, fun hp hr => ?_, fun h => ?_, fun straps high hp => ?_⟩
  · rw [exec_resetNRelease, if_pos (by rw [hp, hr]; rfl)]
    rfl
  · rw [exec_resetNRelease, if_neg fun hc => ?_]
    rw [Bool.and_eq_true, decide_eq_true_eq] at hc
    rcases h with h | h
    · exact absurd (hc.1.symm.trans h) (by decide)
    · exact absurd (hc.2.symm.trans h) (by decide)
  · simp only [exec, execInternalResetEnd, hp, reduceCtorEq, if_false]

end Sys2Proof.Machine
end

section
/-! PROOFS. The scans of an enumeration: ID_READ (R31, R32), IR_MEASURE (R33) and BYPASS_COUNT (R34). -/

namespace Sys2Proof.Machine
set_option Elab.async false

/-! ### The periods of an enumeration scan -/

/-- TMS is 1 on the last shift alone, whatever the shifts are counted from (R103). -/
theorem shiftPeriods_eq (out : List Bool) (m : Nat) :
    shiftPeriods out =
      (out.zipIdx m).map fun bk => { tms := decide (bk.2 + 1 = m + out.length), tdoOut := bk.1, trstN := true } := by
  induction out generalizing m with
  | nil => rfl
  | cons b rest ih =>
    cases rest with
    | nil => simp [shiftPeriods]
    | cons b' rest =>
      have hlen : m + 1 + (b' :: rest).length = m + (b :: b' :: rest).length := by
        simp only [List.length_cons]; omega
      have hlast : decide (m + 1 = m + (b :: b' :: rest).length) = false := by
        simp only [List.length_cons]; exact decide_eq_false (by omega)
      rw [shiftPeriods, List.zipIdx_cons, List.map_cons, ih (m + 1), hlen, hlast]
      exact fun h => nomatch h

theorem entryPeriods_eq (ir : Bool) :
    entryPeriods ir = (if ir = true then [true, true, false, false] else [true, false, false]).map fun t =>
      { tms := t, tdoOut := true, trstN := true } := by
  cases ir <;> rfl

/-- The periods an enumeration clocks once its bits make the shift `n` the last (R103). -/
theorem portPeriods_of_shifts {s : State} {c : ChainId} {step : EnumStep} {tdi : List Bool} {n : Nat}
    (hp : (s.chains[c]).phase = .enumerating step) (hop : (s.chains[c]).op ≠ none) (hn : step.shifts tdi = some n) :
    s.portPeriods c tdi = scanClocked step.isIr (step.outBits n) := by
  obtain ⟨f, hf⟩ := Option.ne_none_iff_exists'.mp hop
  have hshift := shiftPeriods_eq (step.outBits n) 0
  rw [Nat.zero_add] at hshift
  simp only [State.portPeriods, hf, hp, EnumStep.periods, hn, hshift, entryPeriods_eq, scanClocked, List.append_assoc]
  rfl

/-! ### The state after a step or a fault -/

theorem State.enumNext_eq (s : State) (c : ChainId) (step : EnumStep) : s.enumNext c step = s.enumerates c step := rfl

theorem State.tellWatchers_sessions_eq {s t : State} (hx : t.sessions = s.sessions) (c : ChainId) :
    (t.tellWatchers c).sessions = s.told c (s.watches c) := by
  refine vector_ext fun l => ?_
  rw [State.tellWatchers_getElem, hx, State.told, Vector.getElem_ofFn]
  refine Option.map_congr fun x h => ?_
  have hw : s.watches c l = chainMember x.watch c := by
    have hsome : s.sessions[l] = some x := h
    simp only [State.watches, hsome]
    rfl
  rw [hw]
  rfl

theorem settle_enumFault (s : State) (c : ChainId) (cause : FaultCause) :
    settle s (s.enumFault c cause) = s.enumFaulted c cause := by
  refine congrArg (settle s) (state_ext rfl rfl rfl rfl rfl ?_ rfl rfl rfl rfl rfl rfl)
  exact State.tellWatchers_sessions_eq rfl c

/-! ### ID_READ -/

theorem wordOfBits_getLsbD (code : Word32) : wordOfBits ((List.range 32).map code.getLsbD) = code := by
  refine BitVec.eq_of_getLsbD_eq fun i hi => ?_
  rw [wordOfBits, BitVec.getLsbD_ofNat, natOfBits_testBit, decide_eq_true hi, Bool.true_and, List.getElem?_map,
    List.getElem?_range hi, Option.map_some, Option.getD_some]

theorem wordOfBits_ones : wordOfBits (List.replicate 32 true) = 0xFFFFFFFF#32 := by decide

/-- A whole identification register: 32 bits, the first of them a 1 (R32). -/
theorem parseIds_register (n k : Nat) (acc : List (Option Word32)) {item : List Bool} (bits : List Bool)
    (hlen : item.length = 32) (hone : item.head? = some true) :
    parseIds (n + 1) k acc (item ++ bits) =
      if wordOfBits item = 0xFFFFFFFF#32 then (.codes acc, k + 32)
      else parseIds n (k + 32) (some (wordOfBits item) :: acc) bits := by
  obtain ⟨t, rfl⟩ : ∃ t, item = true :: t := by
    cases item with
    | nil => cases hone
    | cons b t => cases hone; exact ⟨t, rfl⟩
  have ht : t.length = 31 := by simpa using hlen
  have hlong : ¬ (t ++ bits).length < 31 := by rw [List.length_append, ht]; omega
  have htake : (true :: (t ++ bits)).take 32 = true :: t := by
    rw [← List.cons_append, List.take_left' hlen]
  have hdrop : (t ++ bits).drop 31 = bits := List.drop_left' ht
  rw [List.cons_append, parseIds]
  simp only [hlong, if_false, htake, hdrop]

theorem idItem_code {code : Word32} (h0 : code.getLsbD 0 = true) :
    (idItem (some code)).length = 32 ∧ (idItem (some code)).head? = some true := by
  refine ⟨by simp only [idItem, List.length_map, List.length_range], ?_⟩
  simp only [idItem, List.head?_map, List.head?_range, Nat.reduceEqDiff, if_false, Option.map_some, h0]

/-- A target's item is read back as its identity code (R32). -/
theorem parseIds_item (n k : Nat) (acc : List (Option Word32)) {item : Option Word32} (bits : List Bool)
    (h : codeIsItem [item]) :
    parseIds (n + 1) k acc (idItem item ++ bits) = parseIds n (k + (idItem item).length) (item :: acc) bits := by
  cases item with
  | none => rfl
  | some code =>
    obtain ⟨h0, hne⟩ := h code (List.mem_singleton_self _)
    obtain ⟨hlen, hone⟩ := idItem_code h0
    have hword : wordOfBits (idItem (some code)) = code := wordOfBits_getLsbD code
    rw [parseIds_register n k acc bits hlen hone, hword, if_neg hne, hlen]

/-- The items of several targets one after another. -/
theorem parseIds_items (n k : Nat) (acc : List (Option Word32)) {items : List (Option Word32)} (bits : List Bool)
    (h : codeIsItem items) :
    parseIds (n + items.length) k acc (items.flatMap idItem ++ bits) =
      parseIds n (k + (items.flatMap idItem).length) (items.reverse ++ acc) bits := by
  induction items generalizing k acc with
  | nil => rfl
  | cons item items ih =>
    have hitem : codeIsItem [item] := fun code hc => h code (by rw [List.mem_singleton.mp hc]; exact List.mem_cons_self)
    rw [List.flatMap_cons, List.append_assoc, List.length_cons, ← Nat.add_assoc, parseIds_item _ _ _ _ hitem,
      ih _ _ fun code hc => h code (List.mem_cons_of_mem _ hc), List.length_append, Nat.add_assoc, List.reverse_cons,
      List.append_assoc, List.singleton_append]

theorem codeIsItem_reverse {ids : List (Option Word32)} (h : codeIsItem ids) : codeIsItem ids.reverse :=
  fun code hc => h code (List.mem_reverse.mp hc)

/-- The end marker after at most 16 items ends ID_READ with their codes (R32). -/
theorem readIds_codes {ids : List (Option Word32)} (hlen : ids.length ≤ 16) (h : codeIsItem ids) (more : List Bool) :
    readIds (ids.reverse.flatMap idItem ++ List.replicate 32 true ++ more) =
      (.codes ids, (ids.reverse.flatMap idItem ++ List.replicate 32 true).length) := by
  have hfuel : Config.targetLimit + 1 = (16 - ids.length) + 1 + ids.reverse.length := by
    rw [List.length_reverse]
    simp only [Config.targetLimit]
    omega
  rw [readIds, hfuel, List.append_assoc, parseIds_items _ _ _ _ (codeIsItem_reverse h), List.reverse_reverse,
    List.append_nil, parseIds_register _ _ _ _ List.length_replicate rfl, wordOfBits_ones, if_pos rfl, Nat.zero_add,
    List.length_append, List.length_replicate]

/-- A 17th item ends ID_READ with TOO_MANY (R32). -/
theorem readIds_tooMany {ids : List (Option Word32)} (hlen : ids.length = 17) (h : codeIsItem ids) (more : List Bool) :
    readIds (ids.reverse.flatMap idItem ++ more) = (.tooMany, (ids.reverse.flatMap idItem).length) := by
  have hfuel : Config.targetLimit + 1 = 0 + ids.reverse.length := by
    rw [List.length_reverse, hlen]
    rfl
  rw [readIds, hfuel, parseIds_items _ _ _ _ (codeIsItem_reverse h), Nat.zero_add, parseIds]

theorem parseIds_le (n k : Nat) (acc : List (Option Word32)) (bits : List Bool) :
    (parseIds n k acc bits).2 ≤ k + 32 * n := by
  induction n generalizing k acc bits with
  | zero => rfl
  | succ n ih =>
    match bits with
    | [] => exact Nat.le_add_right _ _
    | false :: rest => exact (ih (k + 1) (none :: acc) rest).trans (by omega)
    | true :: rest =>
      rw [parseIds]
      split
      · exact Nat.le_add_right _ _
      · split
        · show k + 32 ≤ k + 32 * (n + 1)
          omega
        · exact (ih _ _ _).trans (by omega)

theorem idShifts_of_codes {bits : List Bool} {ids : List (Option Word32)} {n : Nat}
    (h : readIds bits = (.codes ids, n)) : idShifts bits = some n := by
  simp only [idShifts, h]

theorem idShifts_of_tooMany {bits : List Bool} {n : Nat} (h : readIds bits = (.tooMany, n)) :
    idShifts bits = some n := by
  simp only [idShifts, h]

/-- At most 17 items of at most 32 bits: 544 shifts (R32). -/
theorem idShifts_le {tdi : List Bool} {n : Nat} (h : idShifts tdi = some n) : n ≤ 544 := by
  have hle := parseIds_le (Config.targetLimit + 1) 0 [] tdi
  rw [← readIds] at hle
  unfold idShifts at h
  split at h
  · cases h
  case h_2 k heq =>
    cases h
    rw [heq] at hle
    exact hle

section
variable {s : State} {c : ChainId} {tdi : List Bool} (hl : s.live = true)
  (hp : (s.chains[c]).phase = .enumerating .idRead)
include hl hp

theorem exec_idRead_codes {ids : List (Option Word32)} (h : readIds tdi = (.codes ids, tdi.length)) :
    exec (.idRead c tdi) s = .next (s.enumerates c (.irMeasure ids)) := by
  simp only [exec, execIdRead, hp, hl, idShifts_of_codes h, h, decide_true, Bool.and_self, if_true, State.enumNext_eq]

theorem exec_idRead_tooMany (h : readIds tdi = (.tooMany, tdi.length)) :
    exec (.idRead c tdi) s = .next (s.enumFaulted c .tooMany) := by
  simp only [exec, execIdRead, hp, hl, idShifts_of_tooMany h, h, decide_true, Bool.and_self, if_true, settle_enumFault]

theorem exec_idRead_unfinished (h : idShifts tdi ≠ some tdi.length) : exec (.idRead c tdi) s = .next s := by
  simp only [exec, execIdRead, hp, hl, h, decide_false, Bool.and_false, Bool.false_eq_true, if_false]

end

/-- Settles O42: the items are parsed one by one, each undoing `idItem`, and the parse looks at no bit beyond the last
that it needs. -/
theorem identitiesReadBack : Obligations.IdentitiesReadBack := by
  intro s c hl
  refine ⟨fun hp => ?_, fun hp => ?_, fun hp => ⟨fun ids more hlen h => ?_, fun ids more hlen h => ?_, fun tdi h => ?_,
    fun tdi n hn => ⟨idShifts_le hn, fun hop => portPeriods_of_shifts hp hop hn⟩⟩⟩
  · simp only [exec, execTestResetComplete, hl, hp, decide_true, Bool.and_self, if_true, State.enumNext_eq]
  · simp only [exec, execTestResetComplete, hp, decide_false, Bool.and_false, Bool.false_eq_true, if_false]
  · intro bits
    have hread := readIds_codes hlen h []
    rw [List.append_nil] at hread
    exact ⟨idShifts_of_codes (readIds_codes hlen h more), exec_idRead_codes hl hp hread⟩
  · intro bits
    have hread := readIds_tooMany hlen h []
    rw [List.append_nil] at hread
    exact ⟨idShifts_of_tooMany (readIds_tooMany hlen h more), exec_idRead_tooMany hl hp hread⟩
  · exact exec_idRead_unfinished hl hp h

/-! ### The first 1 of a scan -/

/-- The first 1 of a list stands at the index whose bit is 1 after zeros alone. -/
theorem findIdx?_id_eq_some {l : List Bool} {k : Nat} :
    l.findIdx? id = some k ↔ l[k]? = some true ∧ ∀ i, i < k → l[i]? = some false := by
  rw [List.findIdx?_eq_some_iff_getElem]
  constructor
  · rintro ⟨hk, hone, hbefore⟩
    refine ⟨by rw [List.getElem?_eq_getElem hk]; exact congrArg some hone, fun i hi => ?_⟩
    rw [List.getElem?_eq_getElem (hi.trans hk)]
    exact congrArg some (Bool.eq_false_iff.mpr (hbefore i hi))
  · rintro ⟨hone, hbefore⟩
    obtain ⟨hk, hval⟩ := List.getElem?_eq_some_iff.mp hone
    refine ⟨hk, hval, fun i hi => ?_⟩
    obtain ⟨_, hzero⟩ := List.getElem?_eq_some_iff.mp (hbefore i hi)
    exact Bool.eq_false_iff.mp hzero

theorem findIdx?_id_eq_none {l : List Bool} (h : ∀ i, i < l.length → l[i]? = some false) : l.findIdx? id = none := by
  rw [List.findIdx?_eq_none_iff]
  intro b hb
  obtain ⟨i, hi⟩ := List.mem_iff_getElem?.mp hb
  obtain ⟨hlt, _⟩ := List.getElem?_eq_some_iff.mp hi
  exact Option.some.inj (hi.symm.trans (h i hlt))

/-- The bits IR_MEASURE looks at: those at the indices 512 to 1024 (R33). -/
theorem measured_getElem? (tdi : List Bool) {i : Nat} (hi : i < 513) :
    ((tdi.drop 512).take 513)[i]? = tdi[512 + i]? := by
  rw [List.getElem?_take_of_lt hi, List.getElem?_drop]

theorem measureIr_total {tdi : List Bool} {k : Nat} (h1 : 512 ≤ k) (h2 : k ≤ 1024) (hone : tdi[k]? = some true)
    (hbefore : ∀ i, 512 ≤ i → i < k → tdi[i]? = some false) :
    measureIr tdi = .total (k - 512) (tdi.take (k - 512)) := by
  have hfind : ((tdi.drop 512).take 513).findIdx? id = some (k - 512) := by
    refine findIdx?_id_eq_some.mpr ⟨?_, fun i hi => ?_⟩
    · rw [measured_getElem? tdi (by omega), Nat.add_sub_cancel' h1, hone]
    · rw [measured_getElem? tdi (by omega), hbefore (512 + i) (by omega) (by omega)]
  simp only [measureIr, Config.measureZeros, hfind]

theorem measureIr_overflow {tdi : List Bool} (h : ∀ i, 512 ≤ i → i ≤ 1024 → tdi[i]? = some false) :
    measureIr tdi = .overflow := by
  have hfind : ((tdi.drop 512).take 513).findIdx? id = none := by
    refine findIdx?_id_eq_none fun i hi => ?_
    have hlt : i < 513 := hi.trans_le (List.length_take_le _ _)
    rw [measured_getElem? tdi hlt, h (512 + i) (by omega) (by omega)]
  obtain ⟨hlong, _⟩ := List.getElem?_eq_some_iff.mp (h 1024 (by omega) (by omega))
  have hlen : 2 * 512 + 1 ≤ tdi.length := hlong
  simp only [measureIr, Config.measureZeros, hfind, hlen, if_true]

/-- IR_MEASURE shifts more than 512 times (R33). -/
theorem measureShifts_gt {tdi : List Bool} {n : Nat} (h : measureShifts tdi = some n) : 512 < n := by
  unfold measureShifts at h
  split at h
  · cases h
    simp only [Config.measureZeros]
    omega
  · cases h
    decide
  · cases h

/-- What IR_MEASURE drives: 512 zeros, then ones (R33). -/
theorem irMeasure_outBits (ids : List (Option Word32)) {n : Nat} (h : 512 < n) :
    (EnumStep.irMeasure ids).outBits n = List.replicate 512 false ++ List.replicate (n - 512) true := by
  refine List.ext_getElem?' fun k hk => ?_
  have hkn : k < n := by
    simp only [EnumStep.outBits, List.length_map, List.length_range, List.length_append, List.length_replicate] at hk
    omega
  have hbit : ((EnumStep.irMeasure ids).outBits n)[k]? = some (decide (512 ≤ k)) := by
    rw [EnumStep.outBits, List.getElem?_map, List.getElem?_range hkn]
    rfl
  rw [hbit]
  by_cases hlow : k < 512
  · rw [List.getElem?_append_left (by rw [List.length_replicate]; exact hlow), List.getElem?_replicate_of_lt hlow,
      decide_eq_false (Nat.not_le.mpr hlow)]
  · rw [List.getElem?_append_right (by rw [List.length_replicate]; omega), List.length_replicate,
      List.getElem?_replicate_of_lt (by omega), decide_eq_true (Nat.not_lt.mp hlow)]

section
variable {s : State} {c : ChainId} {ids : List (Option Word32)} {tdi : List Bool} (hl : s.live = true)
  (hp : (s.chains[c]).phase = .enumerating (.irMeasure ids))
include hl hp

theorem exec_irMeasure_total {k : Nat} {pattern : List Bool} (hm : measureIr tdi = .total k pattern)
    (hlen : tdi.length = 512 + k + 1) :
    exec (.irMeasure c tdi) s = .next
      (if k < 2 * ids.length then s.enumFaulted c .irShort else s.enumerates c (.bypassCount ids k pattern)) := by
  have hshifts : measureShifts tdi = some tdi.length := by
    simp only [measureShifts, hm, hlen, Config.measureZeros]
  simp only [exec, execIrMeasure, hp, hl, hshifts, hm, decide_true, Bool.and_self, if_true, State.enumNext_eq,
    settle_enumFault]

theorem exec_irMeasure_overflow (hm : measureIr tdi = .overflow) (hlen : tdi.length = 1025) :
    exec (.irMeasure c tdi) s = .next (s.enumFaulted c .irOverflow) := by
  have hshifts : measureShifts tdi = some tdi.length := by
    simp only [measureShifts, hm, hlen, Config.measureZeros]
  simp only [exec, execIrMeasure, hp, hl, hshifts, hm, decide_true, Bool.and_self, if_true, settle_enumFault]

theorem exec_irMeasure_unfinished (h : measureShifts tdi ≠ some tdi.length) : exec (.irMeasure c tdi) s = .next s := by
  simp only [exec, execIrMeasure, hp, hl, h, decide_false, Bool.and_false, Bool.false_eq_true, if_false]

end

/-- Settles O43: the first 1 from index 512 on decides, and none of the 513 bits being a 1 is the overflow. -/
theorem instructionRegistersMeasured : Obligations.InstructionRegistersMeasured := by
  intro s c ids tdi hl hp shifts
  refine ⟨fun k h1 h2 hone hbefore => ?_, fun h => ?_, exec_irMeasure_unfinished hl hp, fun n hn hop => ?_⟩
  · have hm := measureIr_total h1 h2 hone hbefore
    refine ⟨?_, fun hlen => ⟨fun hfit => ?_, fun hshort => ?_⟩⟩
    · simp only [shifts, EnumStep.shifts, measureShifts, hm, Config.measureZeros, Option.some.injEq]
      omega
    · rw [exec_irMeasure_total hl hp hm (by omega), if_neg (by omega)]
    · rw [exec_irMeasure_total hl hp hm (by omega), if_pos hshort]
  · have hm := measureIr_overflow h
    exact ⟨by simp only [shifts, EnumStep.shifts, measureShifts, hm, Config.measureZeros],
      exec_irMeasure_overflow hl hp hm⟩
  · rw [portPeriods_of_shifts hp hop hn, irMeasure_outBits ids (measureShifts_gt hn)]
    rfl

/-! ### BYPASS_COUNT -/

theorem counted_one {n k : Nat} {tdi : List Bool} (hk : k ≤ n) (hone : tdi[k]? = some true)
    (hbefore : ∀ i, i < k → tdi[i]? = some false) : (tdi.take (n + 1)).findIdx? id = some k := by
  refine findIdx?_id_eq_some.mpr ⟨?_, fun i hi => ?_⟩
  · rw [List.getElem?_take_of_lt (Nat.lt_succ_of_le hk), hone]
  · rw [List.getElem?_take_of_lt (by omega), hbefore i hi]

theorem counted_zeros {n : Nat} {tdi : List Bool} (h : ∀ i, i ≤ n → tdi[i]? = some false) :
    (tdi.take (n + 1)).findIdx? id = none ∧ n + 1 ≤ tdi.length := by
  obtain ⟨hlong, _⟩ := List.getElem?_eq_some_iff.mp (h n le_rfl)
  refine ⟨findIdx?_id_eq_none fun i hi => ?_, hlong⟩
  have hlt : i < n + 1 := hi.trans_le (List.length_take_le _ _)
  rw [List.getElem?_take_of_lt hlt, h i (by omega)]

theorem countShifts_le {n m : Nat} {tdi : List Bool} (h : countShifts n tdi = some m) : m ≤ n + 1 := by
  unfold countShifts at h
  split at h
  case h_1 k hk =>
    cases h
    obtain ⟨hlt, _⟩ := List.getElem?_eq_some_iff.mp (findIdx?_id_eq_some.mp hk).1
    exact hlt.trans_le (List.length_take_le _ _)
  case h_2 =>
    split at h
    · cases h; rfl
    · cases h

section
variable {s : State} {c : ChainId} {ids : List (Option Word32)} {total : Nat} {pattern tdi : List Bool}
  (hl : s.live = true) (hp : (s.chains[c]).phase = .enumerating (.bypassCount ids total pattern))
include hl hp

theorem exec_bypassCount_one {k : Nat} (hfind : (tdi.take (ids.length + 1)).findIdx? id = some k)
    (hlen : tdi.length = k + 1) :
    exec (.bypassCount c tdi) s = .next
      (if (decide (k = ids.length) && (decide (ids.length ≠ 0) || decide (total = 0))) = true then
        s.updChain c fun x => { x with phase := .enumerating (.closing ids total pattern), op := none }
      else s.enumFaulted c .countMismatch) := by
  have hshifts : countShifts ids.length tdi = some tdi.length := by simp only [countShifts, hfind, hlen]
  simp only [exec, execBypassCount, hp, hl, hshifts, countBypass, hfind, decide_true, Bool.and_self, if_true]
  cases decide (k = ids.length) && (decide (ids.length ≠ 0) || decide (total = 0)) with
  | true => rfl
  | false => exact congrArg Host.Outcome.next (settle_enumFault s c _)

theorem exec_bypassCount_zeros (hfind : (tdi.take (ids.length + 1)).findIdx? id = none)
    (hlen : tdi.length = ids.length + 1) :
    exec (.bypassCount c tdi) s = .next (s.enumFaulted c .countMismatch) := by
  have hlong : ids.length + 1 ≤ tdi.length := hlen.ge
  have hshifts : countShifts ids.length tdi = some tdi.length := by
    simp only [countShifts, hfind, hlen, le_refl, if_true]
  simp only [exec, execBypassCount, hp, hl, hshifts, countBypass, hfind, hlong, decide_true, Bool.and_self, if_true,
    settle_enumFault]

theorem exec_bypassCount_unfinished (h : countShifts ids.length tdi ≠ some tdi.length) :
    exec (.bypassCount c tdi) s = .next s := by
  simp only [exec, execBypassCount, hp, hl, h, decide_false, Bool.and_false, Bool.false_eq_true, if_false]

end

/-- Settles O44: the index of the first 1 against the count of targets. -/
theorem bypassCounted : Obligations.BypassCounted := by
  intro s c ids total pattern tdi hl hp shifts
  refine ⟨fun k hk hone hbefore => ?_, fun h => ?_, exec_bypassCount_unfinished hl hp, fun n hn =>
    ⟨countShifts_le hn, fun hop => portPeriods_of_shifts hp hop hn⟩⟩
  · have hfind := counted_one hk hone hbefore
    refine ⟨by simp only [shifts, EnumStep.shifts, countShifts, hfind], fun hlen => ⟨fun hkn hz => ?_, fun hbad => ?_⟩⟩
    · rw [exec_bypassCount_one hl hp hfind hlen, if_pos ?_]
      · rfl
      · rw [Bool.and_eq_true, Bool.or_eq_true, decide_eq_true_eq, decide_eq_true_eq, decide_eq_true_eq]
        refine ⟨hkn, ?_⟩
        by_cases hids : ids = []
        · exact .inr (hz hids)
        · exact .inl (mt List.length_eq_zero_iff.mp hids)
    · rw [exec_bypassCount_one hl hp hfind hlen, if_neg ?_]
      rw [Bool.and_eq_true, Bool.or_eq_true, decide_eq_true_eq, decide_eq_true_eq, decide_eq_true_eq]
      rintro ⟨hkn, hne | htotal⟩
      · rcases hbad with hlt | ⟨_, rfl, _⟩
        · exact absurd hkn hlt.ne
        · exact hne rfl
      · rcases hbad with hlt | ⟨_, _, hne⟩
        · exact absurd hkn hlt.ne
        · exact hne htotal
  · obtain ⟨hfind, hlong⟩ := counted_zeros h
    exact ⟨by simp only [shifts, EnumStep.shifts, countShifts, hfind, hlong, if_true],
      exec_bypassCount_zeros hl hp hfind⟩

end Sys2Proof.Machine
end

section
/-! PROOFS. The end of an enumeration: the descriptions of the new records (R38 to R41) and the closing action
(R7, R35, R42, R43). -/

namespace Sys2Proof.Machine
set_option Elab.async false

/-! ### Deduction -/

/-- The descriptions without an IR length. -/
def unknownShapes (ds : List Description) : List Description :=
  ds.filter fun d => d.shape = .unknown

/-- What deduction gives a description (R41). -/
def Description.filled (rest : Nat) (d : Description) : Description :=
  if d.shape = .unknown then { d with shape := .known rest .deduced } else d

/-- Deduction applies: one length is missing, in range, and the pattern check passes with it (R41). -/
def deducible (total : Nat) (pattern : List Bool) (ds : List Description) (rest : Nat) : Prop :=
  (unknownShapes ds).length = 1 ∧ irLengthInRange rest = true ∧
    patternOk total pattern (ds.map fun d => d.shape.length.getD rest) = true

theorem filled_length (rest : Nat) (d : Description) : (d.filled rest).shape.length.getD 0 = d.shape.length.getD rest := by
  unfold Description.filled
  cases hd : d.shape with
  | unknown => rw [if_pos rfl]; rfl
  | known n src => rw [if_neg (by simp), hd]; rfl

theorem deduceShapes_eq {total rest : Nat} {ds : List Description} (pattern : List Bool)
    (hrest : rest = total - (ds.map fun d => d.shape.length.getD 0).sum) [Decidable (deducible total pattern ds rest)] :
    deduceShapes total pattern ds = if deducible total pattern ds rest then ds.map (Description.filled rest) else ds := by
  subst hrest
  have hlengths : ∀ rest, (ds.map (Description.filled rest)).map (fun d => d.shape.length.getD 0) =
      ds.map fun d => d.shape.length.getD rest := fun rest => by
    rw [List.map_map]
    exact List.map_congr_left fun d _ => filled_length rest d
  have hunfold : ∀ b : Bool,
      b = (decide ((unknownShapes ds).length = 1) && irLengthInRange (total - (ds.map fun d => d.shape.length.getD 0).sum) &&
        patternOk total pattern
          ((ds.map (Description.filled (total - (ds.map fun d => d.shape.length.getD 0).sum))).map
            fun d => d.shape.length.getD 0)) →
      deduceShapes total pattern ds =
        if b then ds.map (Description.filled (total - (ds.map fun d => d.shape.length.getD 0).sum)) else ds := by
    rintro b rfl
    rfl
  rw [hunfold _ rfl, hlengths]
  refine if_congr ?_ rfl rfl
  rw [Bool.and_eq_true, Bool.and_eq_true, decide_eq_true_eq, and_assoc]
  exact Iff.rfl

/-- One element fits a test exactly when no other place holds one that does. -/
theorem filter_length_eq_one {α : Type} {l : List α} {t : α → Bool} {p : Nat} {x : α} (hx : l[p]? = some x)
    (ht : t x = true) :
    (l.filter t).length = 1 ↔ ∀ q y, l[q]? = some y → t y = true → q = p := by
  induction l generalizing p with
  | nil => cases hx
  | cons a l ih =>
    cases p with
    | zero =>
      cases hx
      rw [List.filter_cons_of_pos ht, List.length_cons, Nat.succ_inj, List.length_eq_zero_iff, List.filter_eq_nil_iff]
      constructor
      · intro h q y hy hty
        cases q with
        | zero => rfl
        | succ q => exact absurd hty (h y (List.mem_of_getElem? hy))
      · intro h y hy hty
        obtain ⟨q, hq⟩ := List.mem_iff_getElem?.mp hy
        exact absurd (h (q + 1) y hq hty) (Nat.succ_ne_zero q)
    | succ p =>
      have hmem : x ∈ l.filter t := List.mem_filter.mpr ⟨List.mem_of_getElem? hx, ht⟩
      cases ha : t a with
      | true =>
        rw [List.filter_cons_of_pos ha, List.length_cons, Nat.succ_inj, List.length_eq_zero_iff]
        constructor
        · intro h
          rw [h] at hmem
          cases hmem
        · intro h
          exact absurd (h 0 a rfl ha) (Nat.succ_ne_zero p).symm
      | false =>
        rw [List.filter_cons_of_neg (by rw [ha]; exact Bool.false_ne_true), ih hx]
        constructor
        · intro h q y hy hty
          cases q with
          | zero => cases hy; rw [ha] at hty; cases hty
          | succ q => rw [h q y hy hty]
        · intro h q y hy hty
          exact Nat.succ_inj.mp (h (q + 1) y hy hty)

/-- Deduction at enumeration is the completion of R41. -/
theorem completes_deduceShapes (total : Nat) (pattern : List Bool) (ds : List Description) :
    completes total pattern ds (deduceShapes total pattern ds) := by
  classical
  obtain ⟨rest, hrest⟩ : ∃ rest, rest = total - (ds.map fun d => d.shape.length.getD 0).sum := ⟨_, rfl⟩
  have hiff : ∀ {p : Nat} {x : Description}, ds[p]? = some x → x.shape = .unknown →
      (deducible total pattern ds rest ↔
        (∀ q y, ds[q]? = some y → y.shape = .unknown → q = p) ∧ 2 ≤ rest ∧ rest ≤ 32 ∧
          patternOk total pattern (ds.map fun y => y.shape.length.getD rest) = true) := by
    intro p x hx hu
    have hone : (unknownShapes ds).length = 1 ↔ ∀ q y, ds[q]? = some y → y.shape = .unknown → q = p := by
      rw [unknownShapes, filter_length_eq_one hx (decide_eq_true hu)]
      simp only [decide_eq_true_eq]
    rw [deducible, hone, irLengthInRange_eq_true, and_assoc]
  rw [deduceShapes_eq pattern hrest]
  unfold completes
  rw [← hrest]
  by_cases hd : deducible total pattern ds rest
  · rw [if_pos hd]
    refine ⟨List.length_map _, fun p x hx => ?_⟩
    rw [List.getElem?_map, hx, Option.map_some, Description.filled]
    by_cases hu : x.shape = .unknown
    · rw [if_pos hu]
      exact ⟨fun _ => rfl, fun hno => absurd ⟨hu, (hiff hx hu).mp hd⟩ hno⟩
    · rw [if_neg hu]
      exact ⟨fun hfit => absurd hfit.1 hu, fun _ => rfl⟩
  · rw [if_neg hd]
    refine ⟨rfl, fun p x hx => ⟨fun hfit => ?_, fun _ => hx⟩⟩
    obtain ⟨hu, hothers⟩ := hfit
    exact absurd ((hiff hx hu).mpr hothers) hd

/-! ### Proposals -/

theorem proposalsConflict_eq_true {ps : List (Option Profile)} {total : Nat} {pattern : List Bool} :
    proposalsConflict ps total pattern = true ↔
      total < (ps.map fun x => (x.map Profile.irLength).getD 0).sum ∨
        ((∀ x ∈ ps, x ≠ none) ∧
          patternOk total pattern (ps.map fun x => (x.map Profile.irLength).getD 0) = false) := by
  simp only [proposalsConflict, Bool.or_eq_true, Bool.and_eq_true, decide_eq_true_eq, List.all_eq_true,
    Bool.not_eq_true', Option.isSome_iff_ne_none]
  exact Iff.rfl

/-- Settles O45: consistent proposals are the descriptions, dropped ones leave blanks, and deduction completes either. -/
theorem profilesAreShapeChecked : Obligations.ProfilesAreShapeChecked := by
  intro table ids total pattern found lengths inconsistent blank
  have hfound : found = ids.map (matchProfile table) := rfl
  have hconflict : proposalsConflict (ids.map (matchProfile table)) total pattern = true ↔ inconsistent :=
    proposalsConflict_eq_true
  refine ⟨fun hbad => ?_, fun hgood => ?_⟩
  · have hnew : describeNew table ids total pattern =
        (deduceShapes total pattern (ids.map fun _ => Description.blank), true) := by
      simp only [describeNew, hconflict.mpr hbad, if_true]
    rw [hnew]
    exact ⟨rfl, completes_deduceShapes total pattern _⟩
  · have hnew : describeNew table ids total pattern =
        (deduceShapes total pattern
          ((ids.map (matchProfile table)).map fun p => (p.map Profile.proposal).getD Description.blank), false) := by
      simp only [describeNew, Bool.eq_false_iff.mpr (mt hconflict.mp hgood), Bool.false_eq_true, if_false]
    have hproposals : (found.map fun x =>
        match x with
        | some y => (⟨.known y.irLength .profile, Vector.ofFn fun k => y.entries[k.val]?⟩ : Description)
        | none => blank) = (ids.map (matchProfile table)).map fun p => (p.map Profile.proposal).getD Description.blank := by
      rw [hfound]
      refine List.map_congr_left fun p _ => ?_
      cases p <;> rfl
    rw [hnew]
    refine ⟨rfl, ?_⟩
    have hcompletes := completes_deduceShapes total pattern
      ((ids.map (matchProfile table)).map fun p => (p.map Profile.proposal).getD Description.blank)
    rw [← hproposals] at hcompletes
    rw [← hproposals]
    exact hcompletes

/-! ### Allocation -/

/-- In an ascending list an element stands behind just those below it. -/
theorem idxOf_of_pairwise {n : Nat} {l : List (Fin n)} (hl : l.Pairwise (· < ·)) {i : Fin n} (hi : i ∈ l) :
    l.idxOf i = (l.filter fun j => decide (j < i)).length := by
  induction l with
  | nil => cases hi
  | cons a l ih =>
    obtain ⟨ha, hl⟩ := List.pairwise_cons.mp hl
    by_cases hai : a = i
    · subst hai
      have hnone : l.filter (fun j => decide (j < a)) = [] :=
        List.filter_eq_nil_iff.mpr fun j hj => by simpa using (ha j hj).le
      rw [List.idxOf_cons_self, List.filter_cons_of_neg (by simp), hnone, List.length_nil]
    · have hmem : i ∈ l := (List.mem_cons.mp hi).resolve_left (Ne.symm hai)
      rw [List.idxOf_cons_ne _ hai, List.filter_cons_of_pos (by simpa using ha i hmem), List.length_cons, ih hl hmem]

/-- The number of FREE slots below a slot: its place among the FREE slots (R7). -/
def State.freeBelow (s : State) (i : SlotId) : Nat :=
  ((List.finRange 32).filter fun j => decide (j < i) && (s.slots[j]).record.isNone).length

theorem State.freeSlots_idxOf {s : State} {i : SlotId} (h : (s.slots[i]).record.isNone = true) :
    s.freeSlots.idxOf i = s.freeBelow i := by
  have hmem : i ∈ s.freeSlots := List.mem_filter.mpr ⟨List.mem_finRange i, h⟩
  have hsorted : s.freeSlots.Pairwise (· < ·) := (List.pairwise_lt_finRange 32).filter _
  rw [idxOf_of_pairwise hsorted hmem, State.freeSlots, List.filter_filter, State.freeBelow]

section
variable {s : State} {c : ChainId} {ids : List (Option Word32)} {ds : List Description} {i : SlotId}

theorem allocate_of_live (h : (s.slots[i]).record.isNone = false) : (s.allocate c ids ds).slots[i.val] = s.slots[i] := by
  obtain ⟨r, hr⟩ := Option.isSome_iff_exists.mp (Option.isNone_eq_false_iff.mp h)
  rw [State.allocate, State.mapSlots_getElem]
  simp only [Fin.getElem_fin] at hr ⊢
  simp only [hr]

theorem allocate_of_beyond (h : ids.length ≤ s.freeBelow i) : (s.allocate c ids ds).slots[i.val] = s.slots[i] := by
  cases hf : (s.slots[i]).record.isNone with
  | false => exact allocate_of_live hf
  | true =>
    have hnone : (s.slots[i.val]).record = none := Option.isNone_iff_eq_none.mp hf
    have hids : ids[s.freeSlots.idxOf i]? = none := by
      rw [State.freeSlots_idxOf hf]
      exact List.getElem?_eq_none h
    rw [State.allocate, State.mapSlots_getElem]
    simp only [hnone, hids, Fin.getElem_fin]

theorem allocate_of_free (hf : (s.slots[i]).record.isNone = true) {code : Option Word32} {d : Description}
    (hcode : ids[s.freeBelow i]? = some code) (hd : ds[s.freeBelow i]? = some d) :
    (s.allocate c ids ds).slots[i.val] =
      ⟨(s.slots[i]).generation, some (newRecord c (Fin.ofNat 16 (s.freeBelow i)) code d)⟩ := by
  have hnone : (s.slots[i.val]).record = none := Option.isNone_iff_eq_none.mp hf
  rw [State.allocate, State.mapSlots_getElem]
  simp only [hnone, State.freeSlots_idxOf hf, hcode, hd, Fin.getElem_fin]

end

/-- The state an agreeing count ends in, the slots aside (R42, R43). -/
theorem State.finishEnum_eq {s t : State} (hslots : t = { s with slots := t.slots }) (c : ChainId) (n total : Nat)
    (pattern : List Bool) (conflict : Bool) :
    t.finishEnum c n total pattern conflict =
      { s with
        slots := t.slots
        sessions := s.told c (s.watches c)
        chains := s.chains.set c
          { s.chains[c] with
            phase := .ready, op := none, targetCount := n, totalIr := total, capture := pattern,
            profileConflict := conflict, queue := [], parks := [] } } := by
  generalize t.slots = v at hslots
  subst hslots
  refine state_ext rfl rfl rfl rfl rfl ?_ rfl rfl rfl rfl rfl rfl
  exact State.tellWatchers_sessions_eq rfl c

theorem exec_closingAction {s : State} {c : ChainId} {ids : List (Option Word32)} {total : Nat} {pattern : List Bool}
    (hl : s.live = true) (hp : (s.chains[c]).phase = .enumerating (.closing ids total pattern)) :
    exec (.closingAction c) s = .next (settle s (s.closeEnum c ids total pattern)) := by
  simp only [exec, execClosingAction, hp, hl, if_true]

/-- Settles O46: too few FREE slots raise the fault, otherwise each FREE slot takes the target of its rank. -/
theorem closingActionAllocates : Obligations.ClosingActionAllocates := by
  intro s c ids total pattern hl hp free rank found
  refine ⟨fun hfew => ?_, fun henough _ => ?_⟩
  · have hclose : s.closeEnum c ids total pattern = s.enumFault c .directoryFull := if_pos hfew
    rw [exec_closingAction hl hp, hclose, settle_enumFault]
  · have hclose : s.closeEnum c ids total pattern =
        (s.allocate c ids found.1).finishEnum c ids.length total pattern found.2 := if_neg (Nat.not_lt.mpr henough)
    refine ⟨(s.allocate c ids found.1).slots, ?_, fun i => ⟨fun h => ?_, fun code d hf hcode hd => ?_⟩⟩
    · rw [exec_closingAction hl hp, hclose, State.finishEnum_eq (s := s) rfl]
    · exact h.elim allocate_of_live allocate_of_beyond
    · exact allocate_of_free hf hcode hd

end Sys2Proof.Machine
end

section
/-! PROOFS. The arbiter's grant (R63, R85 to R88) and the scans it composes (R101 to R107, R123). -/

namespace Sys2Proof.Machine
set_option Elab.async false

/-! ### Composition -/

theorem TargetRecord.codeOf_of_pos (r : TargetRecord) {m : Fin 8} (h : m.val ≠ 0) :
    r.codeOf m = ((r.entries[m.val - 1]).map CatEntry.code).getD (onesCode (r.irLength.getD 0)) := by
  simp only [TargetRecord.codeOf, dif_neg h]
  cases r.entries[m.val - 1] <;> rfl

/-- The code shifted for an entry, bit by bit (R104, R105). -/
theorem TargetRecord.codeBits_eq (r : TargetRecord) (m : Fin 8) :
    r.codeBits m = (List.range (r.irLength.getD 0)).map (r.codeOf m).getLsbD := by
  have hcode : ((r.entry m).map CatEntry.code).getD (onesCode (r.irLength.getD 0)) = r.codeOf m := by
    by_cases hm : m.val = 0
    · rw [TargetRecord.entry_zero r hm, Option.map_some, Option.getD_some, bypass_eq]
      simp only [TargetRecord.codeOf, dif_pos hm]
      cases r.irLength <;> rfl
    · rw [TargetRecord.codeOf_of_pos r hm]
      simp only [TargetRecord.entry, dif_neg hm]
  rw [TargetRecord.codeBits, hcode, bitsOf]

/-- The code an IR scan shifts into a record it does not address (R105). -/
theorem TargetRecord.codeOf_paddingIndex (r : TargetRecord) :
    r.codeOf r.paddingIndex = match r.resident with
      | .index k => r.codeOf k
      | _ => r.codeOf 0 := by
  unfold TargetRecord.paddingIndex
  cases r.resident <;> rfl

theorem TargetRecord.irSegment_eq (r : TargetRecord) (p : Fin 16) (m : Fin 8) :
    r.irSegment p m =
      ⟨(List.range (r.irLength.getD 0)).map
        (if r.position = p then r.codeOf m else r.codeOf r.paddingIndex).getLsbD, .signature⟩ := by
  rw [TargetRecord.irSegment, TargetRecord.codeBits_eq]
  split <;> rfl

theorem State.irSegments_eq (s : State) (c : ChainId) (source : ScanSource) (p : Fin 16) (m : Fin 8) (idle : Nat) :
    s.irSegments c p m = (s.irScan c source p m idle).segments := by
  refine List.map_congr_left fun ir _ => ?_
  rw [TargetRecord.irSegment_eq, TargetRecord.codeOf_paddingIndex] <;> rfl

theorem TargetRecord.drLength_of_zero {r : TargetRecord} {k : Fin 8} (hr : r.resident = .index k) (hk : k.val = 0) :
    r.drLength = some 1 := by
  simp only [TargetRecord.drLength, hr, TargetRecord.entry_zero r hk, Option.map_some, TargetRecord.bypass]

theorem State.drSegments_eq (s : State) (c : ChainId) (source : ScanSource) (p : Fin 16) (out : List Bool) (idle : Nat) :
    s.drSegments c p out = (s.drScan c source p out idle).segments := by
  refine List.map_congr_left fun ir _ => ?_
  simp only [TargetRecord.drSegment]
  by_cases hp : ir.2.position = p
  · rw [if_pos hp, if_pos hp]
  · rw [if_neg hp, if_neg hp]
    cases hr : ir.2.resident with
    | resetDefault =>
      cases hid : ir.2.identity with
      | none => simp only [TargetRecord.drLength, TargetRecord.drExpectation, hr, hid]; rfl
      | some code => simp only [TargetRecord.drLength, TargetRecord.drExpectation, hr, hid]; rfl
    | unknown => simp only [TargetRecord.drLength, TargetRecord.drExpectation, hr]; rfl
    | index k =>
      by_cases hk : k.val = 0
      · simp only [TargetRecord.drLength_of_zero hr hk, TargetRecord.drExpectation, hr, hk, if_true, dif_pos]
        rfl
      · simp only [TargetRecord.drLength, TargetRecord.drExpectation, hr, TargetRecord.entry, hk, if_false, dif_neg,
          not_false_eq_true]

theorem State.positionOf_of_named {s : State} {h : Handle} {i : SlotId} {r : TargetRecord}
    (hn : s.named h = some (i, r)) : (s.positionOf h).getD 0 = r.position := by
  simp only [State.positionOf, hn, Option.map_some, Option.getD_some]

section
variable {s : State} {c : ChainId} {h : Handle} {i : SlotId} {r : TargetRecord} (hn : s.named h = some (i, r))
include hn

theorem State.parkScan_eq : s.parkScan c h = s.irScan c (.park h) r.position 0 0 := by
  simp only [State.parkScan, State.positionOf_of_named hn, State.irSegments_eq s c (.park h) r.position 0 0]
  rfl

theorem State.jobScan_ir {j : JobId} {y : Job} {m : Fin 8} (hk : y.kind = .ir h m) :
    s.jobScan c j y = s.irScan c (.job j) r.position m y.idle := by
  simp only [State.jobScan, hk, State.positionOf_of_named hn, State.irSegments_eq s c (.job j) r.position m y.idle]
  rfl

theorem State.jobScan_dr {j : JobId} {y : Job} {out : List Bool} (hk : y.kind = .dr h out) :
    s.jobScan c j y = s.drScan c (.job j) r.position out y.idle := by
  simp only [State.jobScan, hk, State.positionOf_of_named hn, State.drSegments_eq s c (.job j) r.position out y.idle]
  rfl

end

theorem State.jobScan_reset {s : State} {c : ChainId} {j : JobId} {y : Job} (hk : y.kind = .chainReset) :
    s.jobScan c j y = s.resetScan c j y.idle := by
  simp only [State.jobScan, hk]
  rfl

/-! ### The selection -/

/-- The QUEUED jobs in these slots, in order. -/
def State.queuedJobs (s : State) (ahead : List JobId) : List Job :=
  ahead.filterMap fun k => (s.jobs[k]).job.filter Job.isQueued

theorem State.mem_queuedJobs {s : State} {ahead : List JobId} {y : Job} :
    y ∈ s.queuedJobs ahead ↔ ∃ k, k ∈ ahead ∧ (s.jobs[k]).job = some y ∧ y.isQueued = true := by
  simp only [State.queuedJobs, List.mem_filterMap, Option.filter_eq_some_iff]

theorem State.queuedJobs_concat (s : State) (ahead : List JobId) (k : JobId) :
    s.queuedJobs (ahead ++ [k]) = s.queuedJobs ahead ++ ((s.jobs[k]).job.filter Job.isQueued).toList := by
  rw [State.queuedJobs, List.filterMap_append]
  cases hk : (s.jobs[k]).job.filter Job.isQueued <;> simp only [List.filterMap_cons, List.filterMap_nil, hk] <;> rfl

theorem State.shapesKnown_eq_true {s : State} {c : ChainId} :
    s.shapesKnown c = true ↔
      ∀ (i : SlotId) (r : TargetRecord), (s.slots[i]).record = some r → r.chain = c → r.irLength ≠ none := by
  simp only [State.shapesKnown, Bool.not_eq_true', ← Bool.not_eq_true, State.anyRecord_eq_true, Bool.and_eq_true,
    decide_eq_true_eq, Option.isNone_iff_eq_none, not_exists, not_and, ne_eq]

theorem State.othersInert_eq_true {s : State} {c : ChainId} {h : Handle} :
    s.othersInert c h = true ↔
      ∀ (i : SlotId) (r : TargetRecord), (s.slots[i]).record = some r → r.chain = c → s.handleOf i ≠ h →
        r.residentClass = some .inert := by
  simp only [State.othersInert, Bool.not_eq_true', ← Bool.not_eq_true, State.anyRecord_eq_true, Bool.and_eq_true,
    decide_eq_true_eq, TargetRecord.inert, not_exists, not_and, not_not, and_imp, ne_eq]

/-- Nothing in the list stands in the way of a job with this target (R86). -/
theorem no_blocker_eq_true {older : List Job} {h : Handle} :
    (!(older.any fun y => decide (y.kind.target = some h)) &&
        !(older.any fun y => decide (y.kind = .chainReset))) = true ↔
      ¬ ∃ y ∈ older, y.kind.target = some h ∨ y.kind = .chainReset := by
  simp only [Bool.and_eq_true, Bool.not_eq_true', List.any_eq_false, decide_eq_true_eq, not_exists, not_and, not_or]
  exact ⟨fun ⟨h1, h2⟩ y hy => ⟨h1 y hy, h2 y hy⟩, fun h => ⟨fun y hy => (h y hy).1, fun y hy => (h y hy).2⟩⟩

/-- Some QUEUED job in these slots fits a test. -/
theorem State.exists_queued_iff {s : State} {ahead : List JobId} {p : Job → Prop} :
    (∃ y ∈ s.queuedJobs ahead, p y) ↔
      ∃ (k : JobId) (y : Job), k ∈ ahead ∧ (s.jobs[k]).job = some y ∧ y.isQueued = true ∧ p y := by
  simp only [State.mem_queuedJobs]
  constructor
  · rintro ⟨y, ⟨k, hk, hy, hq⟩, hp⟩; exact ⟨k, y, hk, hy, hq, hp⟩
  · rintro ⟨k, y, hk, hy, hq, hp⟩; exact ⟨y, ⟨k, hk, hy, hq⟩, hp⟩

/-- Grantable behind the QUEUED jobs ahead is what R86 says of a job that may run. -/
theorem State.grantable_eq_true {s : State} {c : ChainId} {ahead : List JobId} {x : Job} :
    s.grantable c (s.queuedJobs ahead) x = true ↔ s.mayRun c ahead x := by
  cases hk : x.kind with
  | ir h m =>
    simp only [State.grantable, State.mayRun, hk, Bool.and_eq_true (_ && _), no_blocker_eq_true, State.exists_queued_iff,
      State.shapesKnown_eq_true]
  | dr h out =>
    simp only [State.grantable, State.mayRun, hk, Bool.and_eq_true (_ && _), no_blocker_eq_true, State.exists_queued_iff,
      State.othersInert_eq_true]
  | chainReset =>
    have hempty : (s.queuedJobs ahead).isEmpty = true ↔ ¬ ∃ y ∈ s.queuedJobs ahead, True := by
      rw [List.isEmpty_iff, List.eq_nil_iff_forall_not_mem]
      simp
    simp only [State.grantable, State.mayRun, hk, hempty, State.exists_queued_iff]

/-- The job in this slot is the oldest of `rest`, behind the slots `ahead`, that may be granted (R87 step 2). -/
def State.oldestBehind (s : State) (c : ChainId) (ahead rest : List JobId) (j : JobId) (x : Job) : Prop :=
  ∃ pre post, rest = pre ++ j :: post ∧ (s.jobs[j]).job = some x ∧ x.isQueued = true ∧ s.mayRun c (ahead ++ pre) x ∧
    ∀ p k q y, pre = p ++ k :: q → (s.jobs[k]).job = some y → y.isQueued = true → ¬ s.mayRun c (ahead ++ p) y

/-- A slot whose job may not be granted is passed over. -/
theorem State.oldestBehind_cons {s : State} {c : ChainId} {ahead rest : List JobId} {k j : JobId} {x : Job}
    (hk : ∀ y, (s.jobs[k]).job = some y → y.isQueued = true → ¬ s.mayRun c ahead y) :
    s.oldestBehind c ahead (k :: rest) j x ↔ s.oldestBehind c (ahead ++ [k]) rest j x := by
  constructor
  · rintro ⟨pre, post, hrest, hj, hq, hrun, hbefore⟩
    cases pre with
    | nil =>
      obtain ⟨rfl, rfl⟩ := List.cons.inj hrest
      rw [List.append_nil] at hrun
      exact absurd hrun (hk x hj hq)
    | cons k' pre =>
      obtain ⟨rfl, rfl⟩ := List.cons.inj hrest
      refine ⟨pre, post, rfl, hj, hq, by rwa [List.append_assoc], fun p m q y hp hm hy => ?_⟩
      rw [List.append_assoc]
      exact hbefore (k :: p) m q y (congrArg _ hp) hm hy
  · rintro ⟨pre, post, rfl, hj, hq, hrun, hbefore⟩
    refine ⟨k :: pre, post, rfl, hj, hq, by rwa [List.append_assoc] at hrun, fun p m q y hp hm hy => ?_⟩
    cases p with
    | nil =>
      obtain ⟨rfl, rfl⟩ := List.cons.inj hp
      rw [List.append_nil]
      exact hk y hm hy
    | cons k' p =>
      obtain ⟨rfl, rfl⟩ := List.cons.inj hp
      have hno := hbefore p m q y rfl hm hy
      rwa [List.append_assoc] at hno

/-- The selection finds just the oldest job that may be granted. -/
theorem State.firstGrantable_eq_some {s : State} {c : ChainId} {j : JobId} {x : Job} (rest ahead : List JobId) :
    s.firstGrantable c (s.queuedJobs ahead) rest = some (j, x) ↔ s.oldestBehind c ahead rest j x := by
  induction rest generalizing ahead with
  | nil =>
    refine ⟨nofun, ?_⟩
    rintro ⟨pre, post, hrest, _⟩
    exact absurd hrest.symm (by simp)
  | cons k rest ih =>
    rw [State.firstGrantable]
    cases hk : (s.jobs[k]).job with
    | none =>
      have hahead : s.queuedJobs (ahead ++ [k]) = s.queuedJobs ahead := by
        rw [State.queuedJobs_concat, hk]; exact List.append_nil _
      rw [State.oldestBehind_cons fun y hy => absurd (hk.symm.trans hy) nofun, ← ih, hahead]
    | some y =>
      cases hq : y.isQueued with
      | false =>
        have hahead : s.queuedJobs (ahead ++ [k]) = s.queuedJobs ahead := by
          rw [State.queuedJobs_concat, hk, Option.filter_some_neg hq]
          exact List.append_nil _
        have hskip : ∀ y', (s.jobs[k]).job = some y' → y'.isQueued = true → ¬ s.mayRun c ahead y' := fun y' hy' hq' => by
          cases hk.symm.trans hy'
          rw [hq] at hq'
          cases hq'
        rw [State.oldestBehind_cons hskip, ← ih, hahead]
        simp only [hq, Bool.false_eq_true, if_false]
      | true =>
        have hahead : s.queuedJobs (ahead ++ [k]) = s.queuedJobs ahead ++ [y] := by
          rw [State.queuedJobs_concat, hk, Option.filter_some_pos hq, Option.toList_some]
        by_cases hrun : s.mayRun c ahead y
        · simp only [hq, if_true, State.grantable_eq_true.mpr hrun, Option.some.injEq, Prod.mk.injEq]
          constructor
          · rintro ⟨rfl, rfl⟩
            refine ⟨[], rest, rfl, hk, hq, by rwa [List.append_nil], fun p m q z hp => ?_⟩
            exact absurd hp.symm (by simp)
          · rintro ⟨pre, post, hrest, hj, _, _, hbefore⟩
            cases pre with
            | nil =>
              obtain ⟨rfl, rfl⟩ := List.cons.inj hrest
              exact ⟨rfl, Option.some.inj (hk.symm.trans hj)⟩
            | cons k' pre =>
              obtain ⟨rfl, rfl⟩ := List.cons.inj hrest
              exact absurd (by rwa [List.append_nil]) (hbefore [] k pre y rfl hk hq)
        · have hskip : ∀ y', (s.jobs[k]).job = some y' → y'.isQueued = true → ¬ s.mayRun c ahead y' := fun y' hy' _ => by
            cases hk.symm.trans hy'
            exact hrun
          rw [State.oldestBehind_cons hskip, ← ih, hahead]
          simp only [hq, if_true, Bool.eq_false_iff.mpr (mt State.grantable_eq_true.mp hrun), Bool.false_eq_true, if_false]

theorem State.firstGrantable_iff {s : State} {c : ChainId} {j : JobId} {x : Job} :
    s.firstGrantable c [] (s.chains[c]).queue = some (j, x) ↔ s.oldestGrantable c j x :=
  State.firstGrantable_eq_some (s.chains[c]).queue []

theorem State.oldestGrantable.mem {s : State} {c : ChainId} {j : JobId} {x : Job} (h : s.oldestGrantable c j x) :
    j ∈ (s.chains[c]).queue := by
  obtain ⟨ahead, rest, hqueue, _⟩ := h
  rw [hqueue]
  exact List.mem_append_right _ List.mem_cons_self

theorem State.mismatched_eq_true {s : State} {x : Job} : s.mismatched x = true ↔ ¬ s.lengthFits x := by
  have hlength : ∀ (h : Handle) (n : Nat), s.residentDrLength h = some n ↔
      ∃ i r, s.named h = some (i, r) ∧ r.drLength = some n := fun h n => by
    simp only [State.residentDrLength, Option.bind_eq_some_iff, Prod.exists]
  cases hk : x.kind with
  | ir h m => simp [State.mismatched, State.lengthFits, hk]
  | chainReset => simp [State.mismatched, State.lengthFits, hk]
  | dr h out =>
    simp only [State.mismatched, State.lengthFits, hk, decide_eq_true_eq, ne_eq, hlength, JobKind.dr.injEq, and_imp]
    exact not_congr ⟨fun hx _ _ hh hout => by subst hh hout; exact hx, fun hx => hx h out rfl rfl⟩

/-- Disposing of a job shortens the queue. -/
theorem finishJob_queue_length {s : State} {c : ChainId} {j : JobId} (hj : j ∈ (s.chains[c]).queue) (o : JobOutcome)
    (data : List Bool) : ((s.finishJob c j o data).chains[c]).queue.length < (s.chains[c]).queue.length := by
  rw [Fin.getElem_fin, State.finishJob_chain, if_pos rfl]
  exact List.length_filter_lt_length_iff_exists.mpr ⟨j, hj, by simp⟩

/-- The selection's answer does not depend on its fuel beyond the queue's length. -/
theorem selectJob_fuel {c : ChainId} (n : Nat) {m : Nat} {s : State} (hn : (s.chains[c]).queue.length < n)
    (hm : (s.chains[c]).queue.length < m) : selectJob n c s = selectJob m c s := by
  induction n generalizing m s with
  | zero => exact absurd hn (Nat.not_lt_zero _)
  | succ n ih =>
    obtain ⟨m, rfl⟩ : ∃ k, m = k + 1 := ⟨m - 1, by omega⟩
    rw [selectJob, selectJob]
    cases hf : s.firstGrantable c [] (s.chains[c]).queue with
    | none => rfl
    | some jx =>
      obtain ⟨j, x⟩ := jx
      have hlen := finishJob_queue_length (State.firstGrantable_iff.mp hf).mem .lengthMismatch []
      dsimp only
      split
      · exact ih (by omega) (by omega)
      · rfl

/-! ### The grant -/

section
variable {s : State} {c : ChainId}

theorem grantOn_of_park {h : Handle} {rest : List Handle} (hp : (s.chains[c]).parks = h :: rest) :
    s.grantOn c = s.grantPark c h rest := by
  simp only [State.grantOn, hp]

theorem grantOn_of_job (hp : (s.chains[c]).parks = []) {j : JobId} {x : Job} (ho : s.oldestGrantable c j x)
    (hfit : s.lengthFits x) : s.grantOn c = s.grantJob c j x := by
  have hfirst := State.firstGrantable_iff.mpr ho
  have hselect : selectJob ((s.chains[c]).queue.length + 1) c s = (s, some (j, x)) := by
    simp only [selectJob, hfirst, Bool.eq_false_iff.mpr fun hm => State.mismatched_eq_true.mp hm hfit,
      Bool.false_eq_true, if_false]
  simp only [State.grantOn, hp, hselect]

theorem grantOn_of_none (hp : (s.chains[c]).parks = []) (ho : ∀ j x, ¬ s.oldestGrantable c j x) : s.grantOn c = s := by
  have hfirst : s.firstGrantable c [] (s.chains[c]).queue = none := by
    cases hf : s.firstGrantable c [] (s.chains[c]).queue with
    | none => rfl
    | some jx => exact absurd (State.firstGrantable_iff.mp hf) (ho jx.1 jx.2)
  have hselect : selectJob ((s.chains[c]).queue.length + 1) c s = (s, none) := by
    simp only [selectJob, hfirst]
  simp only [State.grantOn, hp, hselect]

/-- With a mismatched job disposed of, the selection goes on as a grant of the state then reached (R87 step 4). -/
theorem grantOn_of_mismatch (hp : (s.chains[c]).parks = []) {j : JobId} {x : Job} (ho : s.oldestGrantable c j x)
    (hfit : ¬ s.lengthFits x) : s.grantOn c = (s.finishJob c j .lengthMismatch []).grantOn c := by
  have hfirst := State.firstGrantable_iff.mpr ho
  have hlen := finishJob_queue_length ho.mem .lengthMismatch []
  have hparks : ((s.finishJob c j .lengthMismatch []).chains[c]).parks = [] := by
    rw [Fin.getElem_fin, State.finishJob_chain, if_pos rfl]
    exact hp
  have hselect : selectJob ((s.chains[c]).queue.length + 1) c s =
      selectJob (((s.finishJob c j .lengthMismatch []).chains[c]).queue.length + 1) c
        (s.finishJob c j .lengthMismatch []) := by
    rw [selectJob_fuel _ (Nat.lt_succ_self _) hlen]
    simp only [selectJob, hfirst, State.mismatched_eq_true.mpr hfit, if_true]
  simp only [State.grantOn, hp, hparks, hselect]

theorem exec_grant (hl : s.live = true) (hp : (s.chains[c]).phase = .ready) :
    exec (.grant c) s = .next (settle s (s.grantOn c)) := by
  simp only [exec, execGrant, hl, hp, decide_true, Bool.and_self, if_true]

end

/-- A scan begun on a chain whose queue or parks were rewritten just before. -/
theorem State.scans_eq {s : State} {jobs : Vector JobSlot 16} {c : ChainId} {y : Chain} {x : Scan}
    (hy : y.settings = (s.chains[c]).settings) :
    (({ s with jobs := jobs, chains := s.chains.set c y } : State).scans c x) =
      { s with
        jobs := jobs
        chains := s.chains.set c { y with phase := .scanning x, op := some (s.chains[c]).settings } } := by
  refine state_ext rfl rfl rfl rfl rfl rfl rfl rfl rfl (vector_ext fun k => ?_) rfl rfl
  simp only [State.scans, set_getElem, Fin.getElem_fin, if_true]
  by_cases hk : k = c
  · rw [if_pos hk, if_pos hk, hy]; rfl
  · rw [if_neg hk, if_neg hk, if_neg hk]

/-- A granted job is RUNNING, not DONE, so no kind starts to pend. -/
theorem quieter_grantJob (s : State) (c : ChainId) (j : JobId) (x : Job) : (s.grantJob c j x).quieter s := by
  refine quieter_records (fun _ h => by simpa [State.grantJob] using h) (fun k y _ h1 h2 h3 => ?_)
    (fun _ _ => by simp [State.grantJob]) (fun i r _ h1 h2 => ⟨r, by simpa [State.grantJob] using h1, h2⟩)
    (fun _ h => by simpa [State.grantJob] using h) fun _ y z h1 h2 h3 => ?_
  · simp only [State.grantJob, State.updChain_jobs, State.setJob_getElem] at h1
    split at h1
    · cases h1
      cases h2
    · exact ⟨y, h1, h2, h3⟩
  · have hsame : (s.grantJob c j x).sessions = s.sessions := by simp [State.grantJob]
    rw [hsame] at h2
    cases h1.symm.trans h2
    exact h3

/-- Every kind that pends before a job is disposed of pends after it. -/
theorem pends_finishJob {s : State} {j : JobId} {x : Job} (hx : (s.jobs[j]).job = some x) (hd : x.isDone = false)
    (c : ChainId) (o : JobOutcome) (data : List Bool) (l : SessionId) (k : NoticeKind) (h : s.pends l k = true) :
    (s.finishJob c j o data).pends l k = true := by
  cases k with
  | linkFault => exact h
  | targetEvent => exact h
  | directoryChange => exact h
  | jobDone =>
    rw [pends_jobDone] at h ⊢
    obtain ⟨m, y, hy, hdone, hs⟩ := h
    refine ⟨m, y, ?_, hdone, hs⟩
    have hne : m ≠ j := fun hm => by
      subst hm
      cases hx.symm.trans hy
      rw [hd] at hdone
      cases hdone
    rw [Fin.getElem_fin, State.finishJob_getElem, if_neg hne]
    exact hy

/-- Settling a state against a later start adds no NOTICE that the earlier start does not give. -/
theorem settle_settle {s u t : State} (hsessions : u.sessions = s.sessions)
    (hpends : ∀ l k, s.pends l k = true → u.pends l k = true) : settle s (settle u t) = settle s t := by
  have htrans : ∀ l, transition u t l = true → transition s t l = true := fun l h => by
    rw [transition_eq_true] at h ⊢
    obtain ⟨ho, k, hnot, hk⟩ := h
    refine ⟨by rwa [State.isOpen, hsessions] at ho, k, ?_, hk⟩
    cases hs : s.pends l k with
    | false => rfl
    | true => rw [hpends l k hs] at hnot; cases hnot
  have hsettled : ∀ l, transition s (settle u t) l = transition s t l := fun l => by
    rw [transition, transition]
    simp only [pends_settle]
  refine state_ext rfl rfl rfl rfl (vector_ext fun l => ?_) rfl rfl rfl rfl rfl rfl rfl
  have hopen : (settle u t).sessions[l] = t.sessions[l] := rfl
  rw [settle_getElem, settle_getElem, settle_getElem, hsettled, hopen]
  obtain hx | ⟨x, hx⟩ := Option.eq_none_or_eq_some (t.sessions[l])
  · simp only [hx]
  · simp only [hx]
    cases hu : transition u t l with
    | false => simp only [Bool.and_false, Bool.false_eq_true, if_false]
    | true =>
      rw [htrans l hu]
      cases x.push <;> rfl

/-- Settles O47: the oldest park or the oldest job that may be granted; a mismatched job is disposed of, and the rest of
the grant is the grant of the state then reached. -/
theorem grantTakesWork : Obligations.GrantTakesWork := by
  intro s c hl x
  refine ⟨fun hready => ⟨fun h rest i r hp hn => ?_, fun j y hp ho => ⟨fun hfit => ?_, fun hfit hs => ?_⟩,
    fun hp hnone => ?_⟩, fun hphase => ?_⟩
  · have hquiet : (s.grantPark c h rest).quieter s := quieter_same rfl rfl rfl rfl rfl
    rw [exec_grant hl hready, grantOn_of_park hp, settle_of_quieter hquiet]
    refine congrArg Host.Outcome.next (Eq.trans ?_
      (State.scans_eq (s := s) (jobs := s.jobs) (c := c) (y := { s.chains[c] with parks := rest }) rfl).symm)
    rw [State.grantPark, State.parkScan_eq hn]
    rfl
  · intro runs
    have hgrant : ∀ z, s.jobScan c j y = z → runs z := fun z hz => by
      refine (exec_grant hl hready).trans ?_
      rw [grantOn_of_job hp ho hfit, settle_of_quieter (quieter_grantJob s c j y)]
      refine congrArg Host.Outcome.next (Eq.trans ?_ (State.scans_eq (s := s) (c := c)
        (y := { s.chains[c] with queue := j :: (s.chains[c]).queue.filter fun k => decide (k ≠ j) }) rfl).symm)
      rw [State.grantJob, hz]
      rfl
    exact ⟨fun h m i r hk hn => hgrant _ (State.jobScan_ir hn hk), fun h out i r hk hn => hgrant _ (State.jobScan_dr hn hk),
      fun hk => hgrant _ (State.jobScan_reset hk)⟩
  · obtain ⟨l, hl'⟩ := Option.ne_none_iff_exists'.mp hs
    obtain ⟨_, _, _, hy, hq, _⟩ := id ho
    have hdone : y.isDone = false := by
      cases hst : y.status <;> simp [Job.isDone, Job.isQueued, hst] at hq ⊢
    have hfinish := State.finishJob_eq hy hl' c .lengthMismatch []
    have hphase : ((s.finishJob c j .lengthMismatch []).chains[c]).phase = .ready := by
      rw [Fin.getElem_fin, State.finishJob_chain, if_pos rfl]
      exact hready
    refine ⟨settle (s.finishJob c j .lengthMismatch []) ((s.finishJob c j .lengthMismatch []).grantOn c), ?_, ?_⟩
    · rw [← hfinish]
      exact exec_grant hl hphase
    · rw [exec_grant hl hready, grantOn_of_mismatch hp ‹_› hfit,
        settle_settle (State.finishJob_sessions _ _ _ _ _) (pends_finishJob hy hdone c _ _)]
  · rw [exec_grant hl hready, grantOn_of_none hp hnone, settle_of_quieter (State.quieter_refl s)]
  · simp only [exec, execGrant]
    rw [if_neg]
    rw [Bool.and_eq_true, decide_eq_true_eq]
    exact fun h => hphase h.2

end Sys2Proof.Machine
end

section
/-! PROOFS. The completion of scans (R16, R61, R64, R91, R113) and of test resets (R124, R128). -/

namespace Sys2Proof.Machine
set_option Elab.async false

/-! ### Residents, release decision, job result -/

theorem State.handleOf_inj {s : State} {i k : SlotId} : s.handleOf i = s.handleOf k ↔ i = k :=
  ⟨fun h => s.handleOf_injective h, congrArg _⟩

/-- With the addressed slot known, the residents written are those of R16. -/
theorem State.writeResidents_eq (s : State) (c : ChainId) (i : SlotId) (m : Fin 8) :
    s.writeResidents c (some (s.handleOf i)) m = s.loaded c i m := by
  refine state_ext (by simp [State.loaded]) (by simp [State.loaded]) (by simp [State.loaded]) (by simp [State.loaded])
    (by simp [State.loaded]) (by simp [State.loaded]) (vector_ext fun k => ?_) (by simp [State.loaded])
    (by simp [State.loaded]) (by simp [State.loaded]) (by simp [State.loaded]) (by simp [State.loaded])
  rw [State.writeResidents_getElem]
  simp only [State.loaded, Vector.getElem_ofFn, Fin.getElem_fin, Option.some.injEq, State.handleOf_inj, eq_comm (a := i)]

theorem State.handleOf_loaded (s : State) (c : ChainId) (i : SlotId) (m : Fin 8) (k : SlotId) :
    (s.loaded c i m).handleOf k = s.handleOf k := by
  simp only [State.handleOf, State.loaded, Fin.getElem_fin, Vector.getElem_ofFn]

theorem State.named_loaded {s : State} {c : ChainId} {i : SlotId} {r : TargetRecord} {h : Handle} (m : Fin 8)
    (hn : s.named h = some (i, r)) (hc : r.chain = c) :
    (s.loaded c i m).named h = some (i, { r with resident := .index m }) := by
  obtain ⟨hr, hh⟩ := State.named_eq_some.mp hn
  rw [Fin.getElem_fin] at hr
  rw [State.named_eq_some, State.handleOf_loaded]
  refine ⟨?_, hh⟩
  simp only [State.loaded, Fin.getElem_fin, Vector.getElem_ofFn, hr, Option.map_some, hc, if_true]

theorem State.decideRelease_eq {s : State} {c : ChainId} {h : Handle} {i : SlotId} {r : TargetRecord}
    (hn : s.named h = some (i, r)) : s.decideRelease c (some h) = s.decided c i r := by
  simp only [State.decideRelease, Option.bind_some, hn, State.decided]
  by_cases hs : r.state = .releasing
  · rw [if_pos hs, if_pos hs]
    by_cases hheld : r.residentClass = some .held
    · rw [if_pos hheld, if_pos (by simpa [TargetRecord.held] using hheld)]
      rfl
    · rw [if_neg hheld, if_neg (by simpa [TargetRecord.held] using hheld),
        withRecordState_eq (State.named_eq_some.mp hn).1]
  · rw [if_neg hs, if_neg hs]

theorem State.jobEnds_eq (s : State) (c : ChainId) (j : JobId) (data : List Bool) :
    (s.finishJob c j .ok data).toReady c = s.jobEnds c j data := by
  refine state_ext (by simp [State.jobEnds]) (by simp [State.jobEnds]) (by simp [State.jobEnds])
    (by simp [State.jobEnds]) (by simp [State.jobEnds]) (by simp [State.jobEnds]) (by simp [State.jobEnds])
    (by simp [State.jobEnds]) (vector_ext fun k => ?_) (vector_ext fun k => ?_) (by simp [State.jobEnds])
    (by simp [State.jobEnds])
  · simp only [State.toReady_jobs, State.finishJob_getElem, State.jobEnds, set_getElem, JobSlot.finished_eq_ended,
      Fin.getElem_fin]
  · simp only [State.toReady_getElem, State.finishJob_chain, State.jobEnds, set_getElem, Fin.getElem_fin, if_true]
    by_cases hk : k = c
    · rw [if_pos hk, if_pos hk]
    · rw [if_neg hk, if_neg hk, if_neg hk]

/-- The end of a park on a record found by its handle. -/
theorem State.endPark_eq {s : State} {h : Handle} {i : SlotId} {r : TargetRecord} (hn : s.named h = some (i, r)) :
    s.endPark (some h) = s.withRecordState i r (if r.state = .releasing then .available else r.state) := by
  obtain ⟨hr, _⟩ := State.named_eq_some.mp hn
  simp only [State.endPark, Option.bind_some, hn]
  by_cases hs : r.state = .releasing
  · rw [if_pos hs, if_pos hs, withRecordState_eq hr]
  · rw [if_neg hs, if_neg hs]
    refine state_ext rfl rfl rfl rfl rfl rfl (vector_ext fun k => ?_) rfl rfl rfl rfl rfl
    rw [State.withRecordState_getElem]
    by_cases hk : k = i
    · rw [if_pos hk, hk, ← hr]
      rfl
    · rw [if_neg hk]

/-! ### SCAN_COMPLETION -/

section
variable {s : State} {c : ChainId} {x : Scan} {caps : List (List Bool)} {tdi : List Bool}

theorem execScanCompletion_of_pass (hl : s.live = true) (hp : (s.chains[c]).phase = .scanning x) (hk : x.kind ≠ .reset)
    (ht : tdi.length = x.total) (he : (x.clock tdi).echoPasses = true) :
    execScanCompletion c tdi s = .next (settle s (s.completeScan c (x.clock tdi))) := by
  simp only [execScanCompletion, hp, hl, hk, ht, he, ne_eq, not_false_eq_true, decide_true, Bool.and_self, if_true]

/-- A clocked scan's result is the captured segment at the addressed position, as far as there is one (R108). -/
theorem Scan.result_getD {p : Fin 16} (h : x.returns caps tdi) (hp : x.addressed = some p) :
    (x.clock tdi).result = (caps[p.val]?).getD [] := by
  have haddr : (x.clock tdi).addressed = some p := hp
  simp only [Scan.result, haddr, Scan.captured_clock h, List.getD_eq_getElem?_getD]

theorem State.completeScan_ir {j : JobId} {y : Job} {m : Fin 8} {i : SlotId} {r : TargetRecord} {h : Handle}
    (hsource : x.source = .job j) (hkind : x.kind = .ir) (hy : (s.jobs[j]).job = some y) (hyk : y.kind = .ir h m)
    (hn : s.named h = some (i, r)) (hc : r.chain = c) :
    s.completeScan c (x.clock tdi) =
      ((s.loaded c i m).decided c i { r with resident := .index m }).jobEnds c j (x.clock tdi).result := by
  have htarget : s.scanTarget (x.clock tdi) = some h := by
    simp only [State.scanTarget, Scan.clock, hsource, hy, Option.bind_some, hyk, JobKind.target]
  have hindex : s.scanIndex (x.clock tdi) = m := by
    simp only [State.scanIndex, Scan.clock, hsource, hy, hyk]
  have hk : (x.clock tdi).kind = .ir := hkind
  have hs : (x.clock tdi).source = .job j := hsource
  have hload : s.writeResidents c (some h) m = s.loaded c i m := by
    rw [(State.named_eq_some.mp hn).2, State.writeResidents_eq]
  simp only [State.completeScan, hs, hk, if_true, htarget, hindex, hload, State.jobEnds_eq,
    State.decideRelease_eq (State.named_loaded m hn hc)]

theorem State.completeScan_dr {j : JobId} {y : Job} {out : List Bool} {i : SlotId} {r : TargetRecord} {h : Handle}
    (hsource : x.source = .job j) (hkind : x.kind = .dr) (hy : (s.jobs[j]).job = some y) (hyk : y.kind = .dr h out)
    (hn : s.named h = some (i, r)) :
    s.completeScan c (x.clock tdi) = (s.decided c i r).jobEnds c j (x.clock tdi).result := by
  have htarget : s.scanTarget (x.clock tdi) = some h := by
    simp only [State.scanTarget, Scan.clock, hsource, hy, Option.bind_some, hyk, JobKind.target]
  have hk : (x.clock tdi).kind = .dr := hkind
  have hs : (x.clock tdi).source = .job j := hsource
  simp only [State.completeScan, hs, hk, reduceCtorEq, if_false, htarget, State.jobEnds_eq, State.decideRelease_eq hn]

theorem State.completeScan_park {i : SlotId} {r : TargetRecord} {h : Handle}
    (hsource : x.source = .park h) (hkind : x.kind = .ir) (hn : s.named h = some (i, r)) (hc : r.chain = c) :
    s.completeScan c (x.clock tdi) =
      ((s.loaded c i 0).withRecordState i { r with resident := .index 0 }
        (if r.state = .releasing then .available else r.state)).toReady c := by
  have htarget : s.scanTarget (x.clock tdi) = some h := by simp only [State.scanTarget, Scan.clock, hsource]
  have hindex : s.scanIndex (x.clock tdi) = 0 := by simp only [State.scanIndex, Scan.clock, hsource]
  have hk : (x.clock tdi).kind = .ir := hkind
  have hs : (x.clock tdi).source = .park h := hsource
  have hload : s.writeResidents c (some h) 0 = s.loaded c i 0 := by
    rw [(State.named_eq_some.mp hn).2, State.writeResidents_eq]
  simp only [State.completeScan, hs, hk, if_true, htarget, hindex, hload, State.endPark_eq (State.named_loaded 0 hn hc)]

end

/-- An effect on the chains and, where no record gains an owner, on the directory makes no kind pending. -/
theorem quieter_directory {s t : State} (hlinks : t.links = s.links) (hjobs : t.jobs = s.jobs)
    (hlines : t.lines = s.lines) (hsessions : t.sessions = s.sessions)
    (hgen : ∀ i : SlotId, (t.slots[i.val]).generation = (s.slots[i.val]).generation)
    (howner : ∀ (i : SlotId) (r : TargetRecord) (l : SessionId), (t.slots[i.val]).record = some r →
      r.state.owner = some l → ∃ q, (s.slots[i.val]).record = some q ∧ q.state.owner = some l) : t.quieter s := by
  refine quieter_records (fun _ h => hlinks ▸ h) (fun _ x _ h1 h2 h3 => ⟨x, hjobs ▸ h1, h2, h3⟩) (fun i _ => hgen i) howner
    (fun _ h => hlines ▸ ⟨h, rfl⟩) fun l x y hx hy h => ?_
  rw [hsessions, hx] at hy
  cases hy
  exact h

/-- The owner of a record whose state loses RELEASING only. -/
theorem RecordState.owner_settled (x : RecordState) : (if x = .releasing then .available else x).owner = x.owner := by
  cases x <;> rfl

theorem State.loaded_owner {s : State} {c : ChainId} {i k : SlotId} {m : Fin 8} {q : TargetRecord}
    (hq : ((s.loaded c i m).slots[k.val]).record = some q) :
    ∃ r, (s.slots[k.val]).record = some r ∧ q.state.owner = r.state.owner := by
  simp only [State.loaded, Vector.getElem_ofFn, Option.map_eq_some_iff, Fin.getElem_fin] at hq
  obtain ⟨r, hr, rfl⟩ := hq
  refine ⟨r, hr, ?_⟩
  split
  · split
    · rfl
    · split <;> rfl
  · rfl

theorem State.loaded_chains (s : State) (c : ChainId) (i : SlotId) (m : Fin 8) :
    (s.loaded c i m).chains = s.chains := by
  rw [State.loaded]

/-- Neither the residents a park writes nor its end gives a record an owner. -/
theorem quieter_parkEnd {s : State} {c : ChainId} {i : SlotId} {r : TargetRecord} (hr : (s.slots[i]).record = some r) :
    (((s.loaded c i 0).withRecordState i { r with resident := .index 0 }
      (if r.state = .releasing then .available else r.state)).toReady c).quieter s := by
  refine quieter_directory (by simp [State.loaded]) (by simp [State.loaded]) (by simp [State.loaded])
    (by simp [State.loaded]) (fun k => ?_) fun k q l hq ho => ?_
  · rw [State.toReady_slots, State.withRecordState_getElem]
    by_cases hk : k = i
    · rw [if_pos hk, hk]
      simp only [State.loaded, Vector.getElem_ofFn, Fin.getElem_fin]
    · rw [if_neg hk]
      simp only [State.loaded, Vector.getElem_ofFn, Fin.getElem_fin]
  · rw [State.toReady_slots, State.withRecordState_getElem] at hq
    by_cases hk : k = i
    · rw [if_pos hk] at hq
      cases hq
      exact hk ▸ ⟨r, hr, RecordState.owner_settled r.state ▸ ho⟩
    · rw [if_neg hk] at hq
      obtain ⟨r', hr', howner⟩ := State.loaded_owner hq
      exact ⟨r', hr', howner ▸ ho⟩

/-! ### Test resets -/

theorem State.resetRecords_slots (s : State) (c : ChainId) : (s.resetRecords c).slots = s.resetSlots c :=
  vector_ext fun k => by simp only [State.resetRecords_getElem, State.resetSlots, Vector.getElem_ofFn, Fin.getElem_fin]

/-- The records after a test reset are the records before it, with their owners (R124). -/
theorem State.resetSlots_owner {s : State} {c : ChainId} {k : SlotId} {q : TargetRecord}
    (hq : ((s.resetSlots c)[k.val]).record = some q) :
    ∃ r, (s.slots[k.val]).record = some r ∧ q.state.owner = r.state.owner := by
  simp only [State.resetSlots, Vector.getElem_ofFn, Option.map_eq_some_iff, Fin.getElem_fin] at hq
  obtain ⟨r, hr, rfl⟩ := hq
  refine ⟨r, hr, ?_⟩
  split
  · exact RecordState.owner_settled r.state
  · rfl

theorem State.resetRecords_eq (s : State) (c : ChainId) : s.resetRecords c = { s with slots := s.resetSlots c } := by
  refine state_ext (by simp) (by simp) (by simp) (by simp) (by simp) (by simp) (State.resetRecords_slots s c) (by simp)
    (by simp) (by simp) (by simp) (by simp)

/-- Settles O52: the records after a test reset, and the job's end or the return's. -/
theorem testResetsComplete : Obligations.TestResetsComplete := by
  intro s c hl
  refine ⟨fun x j hp hkind hsource => ?_, fun hp => ?_, fun hp => ?_⟩
  · simp only [exec, execChainResetCompletion, hp, hkind, hsource, hl, if_true, State.jobEnds_eq, State.resetRecords_eq]
    rw [← hp]
    rfl
  · have hquiet : ((s.resetRecords c).updChain c
        fun y => { y with phase := .ready, op := none, queue := [], parks := [] }).quieter s := by
      refine quieter_directory (by simp) (by simp) (by simp) (by simp) (fun i => by simp) fun i r l hr ho => ?_
      rw [State.updChain_slots, State.resetRecords_slots] at hr
      obtain ⟨q, hq, howner⟩ := State.resetSlots_owner hr
      exact ⟨q, hq, howner ▸ ho⟩
    have hexec : exec (.returnCompletion c) s = .next (settle s ((s.resetRecords c).updChain c
        fun y => { y with phase := .ready, op := none, queue := [], parks := [] })) := by
      simp only [exec, execReturnCompletion, hp, hl, decide_true, Bool.and_self, if_true]
    rw [hexec, settle_of_quieter hquiet, State.resetRecords_eq]
    rfl
  · simp only [exec, execReturnCompletion, hp, decide_false, Bool.and_false, Bool.false_eq_true, if_false]

/-- Settles O50: the residents, the release decision and the job's end of R113, each by its own lemma. -/
theorem scanCompletes : Obligations.ScanCompletes := by
  intro s c x caps tdi p i r h hl hp hret hchk haddr hn hc data
  have hpass := (Scan.echoPasses_clock hret).mpr hchk
  have hdata : (x.clock tdi).result = data := Scan.result_getD hret haddr
  have hexec : x.kind ≠ .reset →
      exec (.scanCompletion c tdi) s = .next (settle s (s.completeScan c (x.clock tdi))) := fun hk =>
    execScanCompletion_of_pass hl hp hk (Scan.returns_total hret) hpass
  refine ⟨fun j y m hsource hkind hy hyk => ?_, fun j y out hsource hkind hy hyk => ?_, fun hsource hkind => ?_⟩
  · rw [hexec (by rw [hkind]; nofun), State.completeScan_ir hsource hkind hy hyk hn hc, hdata]
  · rw [hexec (by rw [hkind]; nofun), State.completeScan_dr hsource hkind hy hyk hn, hdata]
  · rw [hexec (by rw [hkind]; nofun), State.completeScan_park hsource hkind hn hc]
    rw [settle_of_quieter (quieter_parkEnd (State.named_eq_some.mp hn).1)]
    rw [State.toReady, State.updChain, State.withRecordState_chains, State.loaded_chains]

end Sys2Proof.Machine
end

section
/-! PROOFS. No request but RESCAN reaches what another session owns (R9, R56, R59, R70, R76, R159). -/

namespace Sys2Proof.Machine
set_option Elab.async false

/-! ### What an effect leaves to a session -/

/-- A session's jobs stay as they are. -/
def State.sparesJobs (o : SessionId) (s u : State) : Prop :=
  ∀ (j : JobId) (y : Job), (s.jobs[j.val]).job = some y → y.session = some o → u.jobs[j.val] = s.jobs[j.val]

/-- A session's records keep handle, state, catalogue and resident, and their shape where it is known. -/
def State.sparesRecords (o : SessionId) (s u : State) : Prop :=
  ∀ (i : SlotId) (r : TargetRecord), (s.slots[i.val]).record = some r → r.state.owner = some o →
    (u.slots[i.val]).generation = (s.slots[i.val]).generation ∧
    ∃ r', (u.slots[i.val]).record = some r' ∧ r'.state = r.state ∧ r'.entries = r.entries ∧
      r'.resident = r.resident ∧ (r.shape ≠ .unknown → r' = r)

/-- The lines bound to a session's records stay as they are. -/
def State.sparesLines (o : SessionId) (s u : State) : Prop :=
  ∀ (i : SlotId) (r : TargetRecord) (e : LineId), (s.slots[i.val]).record = some r → r.state.owner = some o →
    (s.lines[e.val]).binding = some (s.handleOf i) → u.lines[e.val] = s.lines[e.val]

/-- An effect reaches nothing of a session. -/
structure State.Spares (o : SessionId) (s u : State) : Prop where
  session : u.sessions[o.val] = s.sessions[o.val]
  jobs : s.sparesJobs o u
  records : s.sparesRecords o u
  lines : s.sparesLines o u

section
variable {o : SessionId} {s u : State}

theorem sparesJobs_of_eq (h : u.jobs = s.jobs) : s.sparesJobs o u := fun _ _ _ _ => by rw [h]

theorem sparesRecords_of_eq (h : u.slots = s.slots) : s.sparesRecords o u := fun i r hr _ => by
  rw [h]
  exact ⟨rfl, r, hr, rfl, rfl, rfl, fun _ => rfl⟩

theorem sparesLines_of_eq (h : u.lines = s.lines) : s.sparesLines o u := fun _ _ _ _ _ _ => by rw [h]

theorem spares_of_tables (hx : u.sessions[o.val] = s.sessions[o.val]) (hj : u.jobs = s.jobs) (hs : u.slots = s.slots)
    (hl : u.lines = s.lines) : s.Spares o u :=
  ⟨hx, sparesJobs_of_eq hj, sparesRecords_of_eq hs, sparesLines_of_eq hl⟩

/-- Rewriting records in place spares a session whose records keep their state, catalogue, resident and known shape. -/
theorem spares_of_records {f : SlotId → TargetRecord → TargetRecord} (hx : u.sessions[o.val] = s.sessions[o.val])
    (hj : s.sparesJobs o u) (hl : u.lines = s.lines)
    (hs : ∀ i : SlotId, u.slots[i.val] = { s.slots[i.val] with record := (s.slots[i.val]).record.map (f i) })
    (hf : ∀ (i : SlotId) (r : TargetRecord), (s.slots[i.val]).record = some r → r.state.owner = some o →
      (f i r).state = r.state ∧ (f i r).entries = r.entries ∧ (f i r).resident = r.resident ∧
        (r.shape ≠ .unknown → f i r = r)) : s.Spares o u := by
  refine ⟨hx, hj, fun i r hr ho => ?_, sparesLines_of_eq hl⟩
  rw [hs]
  exact ⟨rfl, f i r, by rw [hr, Option.map_some], hf i r hr ho⟩

/-- Freeing jobs spares a session none of whose jobs is freed. -/
theorem sparesJobs_freeJobs {p : JobId → Job → Bool} (h : ∀ j y, y.session = some o → p j y = false) :
    s.sparesJobs o (s.freeJobs p) := fun j y hy ho => by
  have hfits : s.jobFits p j = false := by simp [State.jobFits, hy, h j y ho]
  rw [State.freeJobs_getElem, hfits]
  rfl

/-- A line that shows a record of one session is not bound to a record of another. -/
theorem boundRecord_owner {i : SlotId} {r q : TargetRecord} {e : LineId} (hr : (s.slots[i.val]).record = some r)
    (hb : (s.lines[e.val]).binding = some (s.handleOf i)) (hq : s.boundRecord e = some q) : q = r := by
  have hn : s.named (s.handleOf i) = some (i, r) := State.named_eq_some.mpr ⟨hr, rfl⟩
  simp only [State.boundRecord, Fin.getElem_fin, hb, Option.bind_some, hn, Option.map_some, Option.some.injEq] at hq
  exact hq.symm

/-- Handles name one record each, so a session's record is not the one another session's handle names. -/
theorem handleOf_ne_of_owner {i k : SlotId} {r q : TargetRecord} {h : Handle} {l : SessionId} (hl : o ≠ l)
    (hr : (s.slots[i.val]).record = some r) (ho : r.state.owner = some o) (hn : s.named h = some (k, q))
    (hq : q.ownedBy l = true) : s.handleOf i ≠ h := by
  rintro rfl
  obtain ⟨hk, hh⟩ := State.named_eq_some.mp hn
  rw [← s.handleOf_injective hh] at hk
  cases hr.symm.trans hk
  exact hl (Option.some.inj (ho.symm.trans (ownedBy_eq_true.mp hq)))

/-- A record of one session is not a record of another. -/
theorem slot_ne_of_owner {i k : SlotId} {r q : TargetRecord} {l : SessionId} (hl : o ≠ l)
    (hr : (s.slots[i.val]).record = some r) (ho : r.state.owner = some o) (hk : (s.slots[k]).record = some q)
    (hq : q.ownedBy l = true) : i ≠ k := by
  rintro rfl
  cases hr.symm.trans hk
  exact hl (Option.some.inj (ho.symm.trans (ownedBy_eq_true.mp hq)))

/-! ### The effects of requests -/

/-- Only the ending session's jobs become orphans. -/
theorem JobSlot.orphaned_of_other {x : JobSlot} {y : Job} {l : SessionId} (hy : x.job = some y)
    (h : y.session ≠ some l) : x.orphaned l = x := by
  cases x
  cases hy
  simp only [JobSlot.orphaned, Option.map_some, h, if_false]

theorem spares_endSession {l : SessionId} (hl : o ≠ l) : s.Spares o (s.endSession l) := by
  have howner : ∀ (r : TargetRecord), r.state.owner = some o → r.ownedBy l = false := fun r ho =>
    Bool.eq_false_iff.mpr fun h => hl (Option.some.inj (ho.symm.trans (ownedBy_eq_true.mp h)))
  refine spares_of_records (by simp [State.endSession, State.setSession, set_getElem, hl]) (fun j y hy ho => ?_)
    (by simp [State.endSession]) (fun k => by simp [State.endSession]; rfl) fun k q hq hqo => ?_
  · have hsession : y.session ≠ some l := by
      rw [ho]
      exact fun h => hl (Option.some.inj h)
    have hjob : (s.endSession l).jobs[j.val] = (s.endJobs l).jobs[j.val] := by simp [State.endSession]
    rw [hjob, State.endJobs_getElem]
    simp only [State.jobFits, Fin.getElem_fin, hy, hsession, decide_false, Bool.false_and, Bool.false_eq_true, if_false,
      JobSlot.orphaned_of_other hy hsession]
  · simp only [howner q hqo, Bool.false_eq_true, if_false, implies_true, and_self]

theorem spares_releaseClaim {l : SessionId} (hl : o ≠ l) {i : SlotId} {r : TargetRecord}
    (hr : (s.slots[i]).record = some r) (ho : r.ownedBy l = true) : s.Spares o (s.releaseClaim l i) := by
  refine spares_of_records (f := fun k q => if decide (k = i) then
    { q with state := State.releasedState _ k q } else q) (by simp [State.releaseClaim]) (fun j y hy ho => ?_)
    (by simp [State.releaseClaim]) (fun k => by simp only [State.releaseClaim, State.releaseRecords_getElem, State.freeJobs_slots]; rfl) fun k q hq hqo => ?_
  · have hfree : (s.releaseClaim l i).jobs = (s.freeJobs (releaseFrees l (s.handleOf i))).jobs := by
      rw [State.releaseClaim, State.releaseRecords_jobs]
      rfl
    rw [hfree]
    refine sparesJobs_freeJobs (fun k z hz => ?_) j y hy ho
    have hne : z.session ≠ some l := by
      rw [hz]
      exact fun h => hl (Option.some.inj h)
    simp only [releaseFrees, hne, decide_false, Bool.and_false, Bool.false_and]
  · have hk : decide (k = i) = false := decide_eq_false (slot_ne_of_owner hl hq hqo hr ho)
    simp only [hk, Bool.false_eq_true, if_false, implies_true, and_self]

theorem spares_claimed {l : SessionId} {i : SlotId} {r : TargetRecord}
    (hr : (s.slots[i]).record = some r) (hs : r.state = .available) :
    s.Spares o (s.updRecord i fun x => { x with state := .claimed l }) := by
  refine ⟨rfl, sparesJobs_of_eq rfl, fun k q hq ho => ?_, sparesLines_of_eq rfl⟩
  have hk : k ≠ i := by
    rintro rfl
    cases hr.symm.trans hq
    rw [hs] at ho
    cases ho
  rw [State.updRecord_getElem, if_neg hk]
  exact ⟨rfl, q, hq, rfl, rfl, rfl, fun _ => rfl⟩

/-- The record whose length a DESCRIBE deduces has no known length before it (R70). -/
theorem lengthPlan_deduced {i j : SlotId} {r : TargetRecord} {n d : Nat} {p : LengthPlan} (h : s.lengthPlan i r n = some p)
    (hd : p.deduced = some (j, d)) : ∃ q, (s.slots[j.val]).record = some q ∧ q.irLength = none := by
  unfold State.lengthPlan at h
  split at h
  · cases h
    cases hd
  split at h
  · split at h
    · cases h
      cases hd
    · cases h
  dsimp only at h
  split at h
  · cases h
  split at h
  · split at h
    · cases h
      cases hd
    · cases h
  · next k q hk =>
    split at h
    · cases h
      cases hd
      have hmem : (j, q) ∈ [(j, q)] := List.mem_singleton_self _
      rw [← hk, List.mem_filter, List.mem_filter] at hmem
      obtain ⟨⟨hrecord, _⟩, hnone⟩ := hmem
      exact ⟨q, (State.chainRecords_sound hrecord).1, Option.isNone_iff_eq_none.mp hnone⟩
    · cases h
  · cases h
    cases hd

theorem spares_writeDescription {l : SessionId} (hl : o ≠ l) {i : SlotId} {r : TargetRecord} {n : Nat} {p : LengthPlan}
    (es : List Edit) (hr : (s.slots[i]).record = some r) (ho : r.ownedBy l = true) (hp : s.lengthPlan i r n = some p) :
    s.Spares o (s.writeDescription i p es) := by
  refine spares_of_records (by simp) (sparesJobs_of_eq (by simp)) (by simp)
    (fun k => by rw [State.writeDescription, State.mapRecords_getElem]) fun k q hq hqo => ?_
  rw [if_neg (slot_ne_of_owner hl hq hqo hr ho)]
  split
  · next j d hd =>
    split
    · next hk =>
      subst hk
      obtain ⟨q', hq', hnone⟩ := lengthPlan_deduced hp hd
      cases hq.symm.trans hq'
      refine ⟨rfl, rfl, rfl, fun hshape => absurd ?_ hshape⟩
      rw [TargetRecord.irLength] at hnone
      cases hsh : q.shape with
      | unknown => rfl
      | known n source => rw [hsh] at hnone; cases hnone
    · exact ⟨rfl, rfl, rfl, fun _ => rfl⟩
  · exact ⟨rfl, rfl, rfl, fun _ => rfl⟩

theorem spares_bindLine {l : SessionId} (hl : o ≠ l) {h : Handle} {i : SlotId} {r : TargetRecord} {e : LineId}
    (p : Polarity) (m : ReportMode) (hn : s.named h = some (i, r)) (ho : r.ownedBy l = true)
    (he : s.lineTaken l e = false) : s.Spares o (s.bindLine h e p m) := by
  refine ⟨rfl, sparesJobs_of_eq rfl, sparesRecords_of_eq rfl, fun k q f hq hqo hb => ?_⟩
  have hfree : f ≠ e := by
    rintro rfl
    refine Bool.eq_false_iff.mp he (State.lineTaken_eq_true.mpr ⟨_, k, q, o, hb, State.named_eq_some.mpr ⟨hq, rfl⟩, hqo, hl⟩)
  rw [State.bindLine_getElem, if_neg hfree, if_neg]
  rw [hb, Option.some.injEq]
  exact handleOf_ne_of_owner hl hq hqo hn ho

theorem spares_unbindRecord {l : SessionId} (hl : o ≠ l) {h : Handle} {i : SlotId} {r : TargetRecord}
    (hn : s.named h = some (i, r)) (ho : r.ownedBy l = true) : s.Spares o (s.unbindRecord h) := by
  refine ⟨rfl, sparesJobs_of_eq rfl, sparesRecords_of_eq rfl, fun k q f hq hqo hb => ?_⟩
  rw [State.unbindRecord_getElem, if_neg]
  rw [hb, Option.some.injEq]
  exact handleOf_ne_of_owner hl hq hqo hn ho

theorem spares_reported {l : SessionId} (hl : o ≠ l) :
    s.Spares o (s.mapLines fun e x => if s.reportsLine l e then { x with flag := false } else x) := by
  refine ⟨rfl, sparesJobs_of_eq rfl, sparesRecords_of_eq rfl, fun k q f hq hqo hb => ?_⟩
  rw [State.mapLines_getElem, if_neg]
  intro hreports
  unfold State.reportsLine at hreports
  split at hreports
  · next r hr =>
    rw [boundRecord_owner hq hb hr, ownedBy_eq_true, hqo, Option.some.injEq] at hreports
    exact hl hreports
  · cases hreports

theorem spares_enterJob {j : JobId} {l : SessionId} {c : ChainId} {kind : JobKind} {idle wait : Nat}
    (hj : s.freeJobSlot = some j) : s.Spares o (s.enterJob j l c kind idle wait) := by
  refine ⟨by simp, fun k y hy _ => ?_, sparesRecords_of_eq (by simp), sparesLines_of_eq (by simp)⟩
  rw [State.enterJob_getElem, if_neg]
  rintro rfl
  have hfree := List.find?_some hj
  rw [Fin.getElem_fin, hy] at hfree
  cases hfree

/-- What a request does before its reply is built reaches nothing of another session. -/
theorem RequestEffect.spares {q : Request} {l : LinkId} (hq : q ≠ .rescan) (hl : o ≠ l) (h : RequestEffect q l s u) :
    s.Spares o u := by
  cases h with
  | unchanged => exact spares_of_tables rfl rfl rfl rfl
  | opened x _ _ => exact spares_of_tables (by simp [State.setSession, set_getElem, hl]) rfl rfl rfl
  | closed => exact spares_endSession hl
  | causesEmptied => exact spares_of_tables rfl rfl rfl rfl
  | acknowledged c => exact spares_of_tables (by simp [State.setSession, set_getElem, hl]) rfl rfl rfl
  | claimed i r _ hr hs _ => exact spares_claimed hr hs
  | released i r hr ho => exact spares_releaseClaim hl hr ho
  | described i r n p es hr ho _ _ hp _ => exact spares_writeDescription hl es hr ho hp
  | entered j c kind idle wait _ hj _ _ => exact spares_enterJob hj
  | freed j x hx hs _ =>
    refine ⟨by simp, fun k y hy ho => ?_, sparesRecords_of_eq (by simp), sparesLines_of_eq (by simp)⟩
    rw [State.freeJobs_getElem, jobFits_slot hx, if_neg]
    rw [decide_eq_true_eq]
    rintro rfl
    cases hx.symm.trans hy
    exact hl (Option.some.inj (ho.symm.trans hs))
  | rescanned c hres _ => exact absurd hres hq
  | configured c x => exact spares_of_tables rfl rfl rfl rfl
  | profiled ps => exact spares_of_tables rfl rfl rfl rfl
  | bound h i r e p m hn ho he => exact spares_bindLine hl p m hn ho he
  | unbound h i r hn ho => exact spares_unbindRecord hl hn ho
  | reported => exact spares_reported hl

end

/-- Settles O57: whatever a request's effect, it spares every other session, and the reply is the caller's own. -/
theorem requestsRespectOwners : Obligations.RequestsRespectOwners := by
  intro q s t l o hq hl h
  have hspares : s.Spares o t := by
    obtain ⟨t', ht', hcases⟩ := exec_row_cases q s l
    cases h.symm.trans ht'
    obtain rfl | ⟨_, _, u, w, heffect, hw, rfl⟩ := hcases
    · exact spares_of_tables rfl rfl rfl rfl
    · obtain ⟨hx, hj, hr, he⟩ := heffect.spares hq hl
      refine ⟨(hw.others o hl).trans hx, ?_, ?_, ?_⟩
      · intro j y; simp only [settle_jobs, hw.jobs]; exact hj j y
      · intro i r; simp only [settle_slots, hw.slots]; exact hr i r
      · intro i r e; simp only [settle_lines, hw.lines]; exact he i r e
  obtain ⟨hx, hj, hr, he⟩ := hspares
  refine ⟨hx, hj, fun i r hi ho => ?_⟩
  obtain ⟨hgen, hrecord⟩ := hr i r hi ho
  exact ⟨by rw [State.handleOf, State.handleOf, Fin.getElem_fin, Fin.getElem_fin, hgen], hrecord,
    fun e hb => he i r e hi ho hb⟩

end Sys2Proof.Machine
end

section
/-! PROOFS. What one command can do to the tables: the directory, the Job Table, the chains, the event lines, the
sessions' being OPEN and the tick. -/

namespace Sys2Proof.Machine
set_option Elab.async false

/-! ### The events of the tables -/

/-- Two states agree on the tables: what notices and replies add to an event reaches links and sessions' fields only. -/
structure TablesAgree (u t : State) : Prop where
  power : t.power = u.power
  resetLow : t.resetLow = u.resetLow
  tickRunning : t.tickRunning = u.tickRunning
  slots : t.slots = u.slots
  jobs : t.jobs = u.jobs
  chains : t.chains = u.chains
  lines : t.lines = u.lines
  opened : ∀ l : SessionId, (t.sessions[l.val]).isSome = (u.sessions[l.val]).isSome

/-- The tables right after a reset that discards all state (R186): no session, record, job or binding, and each chain
DISABLED or before its enumeration. -/
structure State.Cleared (t : State) : Prop where
  sessions : ∀ l : SessionId, t.sessions[l.val] = none
  slots : ∀ i : SlotId, t.slots[i.val] = ⟨1, none⟩
  jobs : ∀ j : JobId, t.jobs[j.val] = ⟨1, none⟩
  chains : ∀ c : ChainId, ((t.chains[c.val]).phase = .disabled ∨ (t.chains[c.val]).phase = .resetting .enumerate) ∧
    (t.chains[c.val]).queue = [] ∧ (t.chains[c.val]).parks = []
  lines : ∀ e : LineId, t.lines[e.val] = .powerOn
  tick : t.live = true → t.tickRunning = true

/-- The chain is in its enumeration, or in the test reset before it. -/
def ChainPhase.enumerates (p : ChainPhase) : Prop :=
  p = .resetting .enumerate ∨ ∃ x, p = .enumerating x

/-- What the commands can do to the tables, before replies are built and notices queued. -/
inductive TableEvent (s : State) : State → Prop
  | same : TableEvent s s
  | request (q : Request) (l : LinkId) {u : State} : RequestEffect q l s u → TableEvent s u
  | cleared {u : State} : u.Cleared → TableEvent s u
  | warm : TableEvent s s.warmReset
  | resumed : TableEvent s { (s.mapChains fun _ x => x.resume) with resetLow := false, tickRunning := true }
  | ended (l : SessionId) : TableEvent s (s.endSession l)
  | timedOut (j : JobId) (x : Job) : (s.jobs[j]).job = some x → x.isQueued = true →
      TableEvent s (s.finishJob x.chain j .timeout [])
  | ticked (pins : BitVec 8) : TableEvent s (s.tick pins)
  | granted (c : ChainId) : (s.chains[c]).phase = .ready → TableEvent s (s.grantOn c)
  | completed (c : ChainId) (x : Scan) (tdi : List Bool) : (s.chains[c]).phase = .scanning x →
      TableEvent s (s.completeScan c (x.clock tdi))
  | faulted (c : ChainId) (x : Scan) : (s.chains[c]).phase = .scanning x → TableEvent s (s.declareFault c)
  | chainReset (c : ChainId) (x : Scan) (j : JobId) : (s.chains[c]).phase = .scanning x → x.source = .job j →
      TableEvent s ((((s.resetRecords c).updChain c fun y => { y with parks := [] }).finishJob c j .ok []).toReady c)
  | returned (c : ChainId) : (s.chains[c]).phase = .resetting .returning →
      TableEvent s ((s.resetRecords c).updChain c
        fun y => { y with phase := .ready, op := none, queue := [], parks := [] })
  | enumStep (c : ChainId) (step : EnumStep) (op : Option TckSettings) : (s.chains[c]).phase.enumerates →
      ((s.chains[c]).phase.targetsLimited → (ChainPhase.enumerating step).targetsLimited) →
      TableEvent s (s.updChain c fun x => { x with phase := .enumerating step, op := op })
  | enumFault (c : ChainId) (cause : FaultCause) : (s.chains[c]).phase.enumerates → TableEvent s (s.enumFault c cause)
  | closed (c : ChainId) (ids : List (Option Word32)) (total : Nat) (pattern : List Bool) :
      (s.chains[c]).phase = .enumerating (.closing ids total pattern) → TableEvent s (s.closeEnum c ids total pattern)

/-- The tables of `t` come from those of `s` by one event. -/
def TableMove (s t : State) : Prop :=
  ∃ u, TableEvent s u ∧ TablesAgree u t

section
variable {s t u : State}

theorem tablesAgree_settle (s u : State) : TablesAgree u (settle s u) :=
  ⟨rfl, rfl, rfl, rfl, rfl, rfl, rfl, fun _ => rfl⟩

theorem tablesAgree_refl (u : State) : TablesAgree u u :=
  ⟨rfl, rfl, rfl, rfl, rfl, rfl, rfl, fun _ => rfl⟩

/-- A reply is built on the tables as the request left them. -/
theorem Handled.tablesAgree {l : LinkId} {w : State} (h : Handled l u w) : TablesAgree u (settle s w) := by
  refine ⟨h.power, h.resetLow, h.tickRunning, h.slots, h.jobs, h.chains, h.lines, fun o => ?_⟩
  have hopen : (settle s w).sessions[o.val] = w.sessions[o.val] := rfl
  rw [hopen]
  by_cases ho : o = l
  · subst ho
    obtain hnone | ⟨x, hx⟩ := Option.eq_none_or_eq_some (u.sessions[o])
    · have hw := h.closed hnone
      rw [Fin.getElem_fin] at hw hnone
      rw [hw, hnone]
    · obtain ⟨y, hy⟩ := h.own x hx
      rw [Fin.getElem_fin] at hx hy
      rw [hx, hy]
      rfl
  · have hother := h.others o ho
    rw [Fin.getElem_fin, Fin.getElem_fin] at hother
    rw [hother]

theorem TableEvent.move (h : TableEvent s u) : TableMove s u :=
  ⟨u, h, tablesAgree_refl u⟩

theorem TableEvent.settled (h : TableEvent s u) : TableMove s (settle s u) :=
  ⟨u, h, tablesAgree_settle s u⟩

theorem tableMove_refl (s : State) : TableMove s s :=
  TableEvent.same.move

/-- A change of a link's unit leaves the tables as they are. -/
theorem tableMove_updLink (s : State) (l : LinkId) (f : Hlu → Hlu) : TableMove s (s.updLink l f) :=
  ⟨s, .same, ⟨rfl, rfl, rfl, rfl, rfl, rfl, rfl, fun _ => rfl⟩⟩

/-- A change of the links leaves the tables as they are, and the notices after it too. -/
theorem tableMove_settle_links {ks : Vector Hlu 4} : TableMove s (settle s { s with links := ks }) :=
  ⟨s, .same, ⟨rfl, rfl, rfl, rfl, rfl, rfl, rfl, fun _ => rfl⟩⟩

/-- A command that does nothing unless its condition holds. -/
theorem tableMove_ite {c : Prop} [Decidable c] (h : c → TableMove s u) : TableMove s (if c then u else s) := by
  split
  case isTrue hc => exact h hc
  case isFalse => exact tableMove_refl s

theorem tableMove_row (q : Request) (l : LinkId) (h : exec (q.row l) s = .next t) : TableMove s t := by
  obtain ⟨t', he, hcases⟩ := exec_row_cases q s l
  cases he.symm.trans h
  obtain rfl | ⟨-, -, u, w, hu, hw, rfl⟩ := hcases
  · exact tableMove_refl _
  · exact ⟨u, .request q l hu, hw.tablesAgree⟩

theorem tableMove_unknownCommand (l : LinkId) (h : exec (.unknownCommand l) s = .next t) : TableMove s t := by
  obtain ⟨t', he, hcases⟩ := exec_unknown_cases s l
  cases he.symm.trans h
  obtain rfl | ⟨-, -, w, hw, rfl⟩ := hcases
  · exact tableMove_refl _
  · exact ⟨s, .same, hw.tablesAgree⟩

end

theorem tablesAgree_receiveChar (s : State) (l : LinkId) (f : LinkFormat) (x : CharSamples) :
    TablesAgree s (settle s (s.receiveChar l f x)) := by
  unfold State.receiveChar
  split
  · dsimp only
    split
    · refine ⟨by simp, by simp, by simp, by simp, by simp, by simp, by simp, fun o => ?_⟩
      have hopen (u : State) : (settle s (u.restartKeepalive l)).sessions[o.val] =
          (u.setSession l ((u.sessions[l]).map fun x => { x with timer := x.timer.map fun _ => 0 })).sessions[o.val] := rfl
      rw [hopen, State.setSession_getElem]
      split
      · next ho => subst ho; exact Option.isSome_map
      · rfl
    · exact ⟨rfl, rfl, rfl, rfl, rfl, rfl, rfl, fun _ => rfl⟩
  · exact ⟨rfl, rfl, rfl, rfl, rfl, rfl, rfl, fun _ => rfl⟩
  · exact ⟨rfl, rfl, rfl, rfl, rfl, rfl, rfl, fun _ => rfl⟩

theorem cleared_reset : State.reset.Cleared := by
  refine ⟨by simp [State.reset], by simp [State.reset], by simp [State.reset], fun c => ?_, by simp [State.reset], ?_⟩
  · simp [State.reset, Chain.powerOn]
  · simp [State.reset, State.live]

theorem cleared_poweredOn (straps : Straps) (high : Bool) (pending : List Instr) :
    (State.poweredOn straps high pending).Cleared := by
  refine ⟨by simp [State.poweredOn, State.reset], by simp [State.poweredOn, State.reset],
    by simp [State.poweredOn, State.reset], fun c => ?_, by simp [State.poweredOn, State.reset], ?_⟩
  · simp only [State.poweredOn, Vector.getElem_ofFn, Chain.strapped]
    split
    · split <;> exact ⟨.inr rfl, rfl, rfl⟩
    · exact ⟨.inl rfl, rfl, rfl⟩
  · simp [State.poweredOn, State.live]

/-- An enumeration reads the codes of at most 16 targets (R32). -/
theorem parseIds_length {ids : List (Option Word32)} {m : Nat} (n : Nat) {k : Nat} {acc : List (Option Word32)}
    {bits : List Bool} (h : parseIds n k acc bits = (.codes ids, m)) : ids.length < acc.length + n := by
  induction n generalizing k acc bits with
  | zero => cases h
  | succ n ih =>
    unfold parseIds at h
    split at h
    · cases h
    · have := ih h
      rw [List.length_cons] at this
      omega
    · split at h
      · cases h
      · split at h
        · cases h
          omega
        · have := ih h
          rw [List.length_cons] at this
          omega

theorem readIds_length {ids : List (Option Word32)} {bits : List Bool} (h : (readIds bits).1 = .codes ids) :
    ids.length ≤ 16 := by
  have hparse : parseIds (Config.targetLimit + 1) 0 [] bits = (.codes ids, (readIds bits).2) := by
    rw [← h]
    rfl
  have hlen := parseIds_length _ hparse
  rw [List.length_nil, Nat.zero_add] at hlen
  exact Nat.le_of_lt_succ hlen

/-- Whatever the command, the tables move by one event. -/
theorem exec_tableMove (i : Instr) : ∀ {s t : State}, exec i s = .next t → TableMove s t := by
  refine instr_cases (P := fun i => ∀ {s t : State}, exec i s = .next t → TableMove s t)
    (request := fun q l _ _ h => tableMove_row q l h)
    (unknownCommand := fun l _ _ h => tableMove_unknownCommand l h)
    (noticeStart := ?noticeStart) (powerOn := ?powerOn) (internalResetEnd := ?internalResetEnd)
    (resetNAssert := ?resetNAssert) (resetNRelease := ?resetNRelease) (characterReceived := ?characterReceived)
    (breakTaken := ?breakTaken) (gapExpiry := ?gapExpiry) (replyStart := ?replyStart) (replyEnd := ?replyEnd)
    (noticeEnd := ?noticeEnd) (keepaliveExpiry := ?keepaliveExpiry) (waitLimitExpiry := ?waitLimitExpiry)
    (grant := ?grant) (scanCompletion := ?scanCompletion) (chainResetCompletion := ?chainResetCompletion)
    (returnCompletion := ?returnCompletion) (testResetComplete := ?testResetComplete) (idRead := ?idRead)
    (irMeasure := ?irMeasure) (bypassCount := ?bypassCount) (closingAction := ?closingAction)
    (eventLineSample := ?eventLineSample) (lineAtMarking := ?lineAtMarking) (startBit := ?startBit)
    (startBitNoise := ?startBitNoise) i
  case powerOn =>
    rintro s _ ⟨⟩
    exact ⟨State.reset, .cleared cleared_reset, ⟨rfl, rfl, rfl, rfl, rfl, rfl, rfl, fun _ => rfl⟩⟩
  case internalResetEnd =>
    rintro straps high s _ ⟨⟩
    exact tableMove_ite fun _ => (TableEvent.cleared (cleared_poweredOn straps high s.pending)).move
  case resetNAssert =>
    rintro s _ ⟨⟩
    exact tableMove_ite fun _ => TableEvent.warm.move
  case resetNRelease =>
    rintro s _ ⟨⟩
    exact tableMove_ite fun _ => TableEvent.resumed.move
  case characterReceived =>
    rintro l x s _ ⟨⟩
    split
    · next f _ => exact tableMove_ite fun _ => ⟨s, .same, tablesAgree_receiveChar s l f x⟩
    · exact tableMove_refl s
  case breakTaken =>
    rintro l s _ ⟨⟩
    split
    · exact tableMove_ite fun _ => tableMove_settle_links
    · exact tableMove_refl s
  case startBitNoise =>
    rintro l s _ ⟨⟩
    split
    · exact tableMove_ite fun _ => tableMove_settle_links
    · exact tableMove_refl s
  case gapExpiry =>
    rintro l s _ ⟨⟩
    exact tableMove_ite fun _ => tableMove_settle_links
  case lineAtMarking =>
    rintro l s _ ⟨⟩
    exact tableMove_ite fun _ => tableMove_updLink s l _
  case startBit =>
    rintro l s _ ⟨⟩
    exact tableMove_ite fun _ => tableMove_updLink s l _
  case replyStart =>
    rintro l s _ ⟨⟩
    split
    · exact tableMove_ite fun _ => tableMove_updLink s l _
    · exact tableMove_refl s
  case replyEnd =>
    rintro l s _ ⟨⟩
    split
    · exact tableMove_ite fun _ => tableMove_updLink s l _
    · exact tableMove_refl s
  case noticeStart =>
    intro l s t h
    change execNoticeStart l s = _ at h
    unfold execNoticeStart at h
    cases h
    refine tableMove_ite fun _ => ?_
    split <;> exact tableMove_updLink s l _
  case noticeEnd =>
    rintro l s _ ⟨⟩
    split
    · exact tableMove_ite fun _ => tableMove_updLink s l _
    · exact tableMove_refl s
  case keepaliveExpiry =>
    rintro l s _ ⟨⟩
    split
    · exact tableMove_ite fun _ => (TableEvent.ended l).settled
    · exact tableMove_refl s
  case waitLimitExpiry =>
    rintro j s _ ⟨⟩
    split
    · next x hx =>
      refine tableMove_ite fun h => (TableEvent.timedOut j x hx ?_).settled
      simp only [Job.expired, Bool.and_eq_true, decide_eq_true_eq] at h
      simp only [Job.isQueued, h.2.2]
    · exact tableMove_refl s
  case grant =>
    rintro c s _ ⟨⟩
    refine tableMove_ite fun h => (TableEvent.granted c ?_).settled
    rw [Bool.and_eq_true, decide_eq_true_eq] at h
    exact h.2
  case scanCompletion =>
    rintro c d s _ ⟨⟩
    split
    · next x hx =>
      refine tableMove_ite fun _ => ?_
      split
      · exact (TableEvent.completed c x d hx).settled
      · exact (TableEvent.faulted c x hx).settled
    · exact tableMove_refl s
  case chainResetCompletion =>
    rintro c s _ ⟨⟩
    split
    · next x hx =>
      split
      · next j _ hj => exact tableMove_ite fun _ => (TableEvent.chainReset c x j hx hj).settled
      · exact tableMove_refl s
    · exact tableMove_refl s
  case returnCompletion =>
    rintro c s _ ⟨⟩
    refine tableMove_ite fun h => (TableEvent.returned c ?_).settled
    rw [Bool.and_eq_true, decide_eq_true_eq] at h
    exact h.2
  case testResetComplete =>
    rintro c s _ ⟨⟩
    refine tableMove_ite fun h => ?_
    rw [Bool.and_eq_true, decide_eq_true_eq] at h
    exact (TableEvent.enumStep c .idRead (some (s.chains[c]).settings) (.inl h.2) fun _ => trivial).move
  case idRead =>
    rintro c d s _ ⟨⟩
    split
    · next hp =>
      refine tableMove_ite fun _ => ?_
      split
      · next ids hids =>
        exact (TableEvent.enumStep c (.irMeasure ids) (some (s.chains[c]).settings) (.inr ⟨_, hp⟩) fun _ => readIds_length hids).move
      · exact (TableEvent.enumFault c _ (.inr ⟨_, hp⟩)).settled
      · exact tableMove_refl s
    · exact tableMove_refl s
  case irMeasure =>
    rintro c d s _ ⟨⟩
    split
    · next ids hp =>
      refine tableMove_ite fun _ => ?_
      split
      · next n pattern _ =>
        split
        · exact (TableEvent.enumFault c _ (.inr ⟨_, hp⟩)).settled
        · exact (TableEvent.enumStep c (.bypassCount ids n pattern) (some (s.chains[c]).settings) (.inr ⟨_, hp⟩)
            fun h => by rw [hp] at h; exact h).move
      · exact (TableEvent.enumFault c _ (.inr ⟨_, hp⟩)).settled
      · exact tableMove_refl s
    · exact tableMove_refl s
  case bypassCount =>
    rintro c d s _ ⟨⟩
    split
    · next ids total pattern hp =>
      refine tableMove_ite fun _ => ?_
      split
      · exact (TableEvent.enumStep c (.closing ids total pattern) none (.inr ⟨_, hp⟩) fun h => by rw [hp] at h; exact h).move
      · exact (TableEvent.enumFault c _ (.inr ⟨_, hp⟩)).settled
      · exact tableMove_refl s
    · exact tableMove_refl s
  case closingAction =>
    rintro c s _ ⟨⟩
    split
    · next ids total pattern hp => exact tableMove_ite fun _ => (TableEvent.closed c ids total pattern hp).settled
    · exact tableMove_refl s
  case eventLineSample =>
    rintro pins s _ ⟨⟩
    exact tableMove_ite fun _ => (TableEvent.ticked pins).settled

end Sys2Proof.Machine
end

section
/-! PROOFS. A DR scan is begun by a grant alone, and a grant begins it only beside INERT residents (R86, R87). -/

namespace Sys2Proof.Machine
set_option Elab.async false

/-! ### What a selection leaves -/

/-- The selection's job is the oldest grantable of the state it answers, and fits its target. -/
theorem selectJob_some {c : ChainId} (n : Nat) {s t : State} {j : JobId} {x : Job}
    (h : selectJob n c s = (t, some (j, x))) : t.oldestGrantable c j x ∧ t.lengthFits x := by
  induction n generalizing s with
  | zero => cases h
  | succ n ih =>
    rw [selectJob] at h
    split at h
    · cases h
    · next j' x' hfirst =>
      split at h
      · exact ih h
      · next hfit =>
        cases h
        exact ⟨State.firstGrantable_iff.mp hfirst, not_not.mp (mt State.mismatched_eq_true.mpr hfit)⟩

/-- The selection disposes of jobs and changes no chain's phase. -/
theorem selectJob_phase (n : Nat) (s : State) (c d : ChainId) :
    ((selectJob n c s).1.chains[d.val]).phase = (s.chains[d.val]).phase := by
  refine selectJob_induction (P := fun t => (t.chains[d.val]).phase = (s.chains[d.val]).phase) (fun t j ht => ?_) n rfl
  rw [State.finishJob_chain]
  split
  · next hd => exact (hd ▸ ht)
  · exact ht

/-- A grant ends in one of three ways: a park in progress, a job in progress, or no work. -/
theorem grantOn_cases (s : State) (c : ChainId) :
    (∃ h rest, s.grantOn c = s.grantPark c h rest) ∨
      ∃ t, (∀ d : ChainId, (t.chains[d.val]).phase = (s.chains[d.val]).phase) ∧
        (s.grantOn c = t ∨ ∃ j x, t.oldestGrantable c j x ∧ t.lengthFits x ∧ s.grantOn c = t.grantJob c j x) := by
  unfold State.grantOn
  split
  · next h rest _ => exact .inl ⟨h, rest, rfl⟩
  · have hphase := selectJob_phase ((s.chains[c]).queue.length + 1) s c
    split
    · next t j x hselect =>
      rw [hselect] at hphase
      obtain ⟨holdest, hfit⟩ := selectJob_some _ hselect
      exact .inr ⟨t, hphase, .inr ⟨j, x, holdest, hfit, rfl⟩⟩
    · next t hselect =>
      rw [hselect] at hphase
      exact .inr ⟨t, hphase, .inl rfl⟩

/-! ### Scans begin with grants -/

/-- A request begins no scan. -/
theorem RequestEffect.scanning {q : Request} {l : LinkId} {s u : State} {c : ChainId} {x : Scan}
    (h : RequestEffect q l s u) (hx : (u.chains[c.val]).phase = .scanning x) : (s.chains[c.val]).phase = .scanning x := by
  cases h with
  | closed =>
    simpa [State.endSession] using hx
  | released => simpa [State.releaseClaim] using hx
  | described => simpa [State.writeDescription] using hx
  | entered =>
    rw [State.enterJob_chain] at hx
    split at hx
    · next hc => exact hc ▸ hx
    · exact hx
  | freed => simpa using hx
  | rescanned d =>
    rw [State.rescanChain, State.updChain_getElem] at hx
    split at hx
    · cases hx
    · simpa using hx
  | configured d =>
    rw [State.updChain_getElem] at hx
    split at hx
    · next hc => exact hc ▸ hx
    · exact hx
  | bound => simpa [State.bindLine] using hx
  | unbound => simpa [State.unbindRecord] using hx
  | _ => exact hx

theorem State.decideRelease_phase (s : State) (c : ChainId) (target : Option Handle) (k : ChainId) :
    ((s.decideRelease c target).chains[k.val]).phase = (s.chains[k.val]).phase := by
  unfold State.decideRelease
  split
  · split
    · split
      · rw [State.updChain_getElem]
        split
        · next hk => rw [hk]
        · rfl
      · rfl
    · rfl
  · rfl

/-- The completion of a scan ends it and leaves every other chain's phase. -/
theorem State.completeScan_phase (s : State) (c : ChainId) (x : Scan) (k : ChainId) :
    ((s.completeScan c x).chains[k.val]).phase = if k = c then .ready else (s.chains[k.val]).phase := by
  have hload : ∀ target i, (if x.kind = .ir then s.writeResidents c target i else s).chains = s.chains := fun target i => by
    split
    · exact State.writeResidents_chains _ _ _ _
    · rfl
  unfold State.completeScan
  by_cases hk : k = c
  · subst hk
    cases x.source <;> simp only [State.toReady_getElem, if_true]
  · cases x.source with
    | job j =>
      simp only [State.toReady_getElem, if_neg hk, State.finishJob_chain, State.decideRelease_phase, hload]
    | park h =>
      simp only [State.toReady_getElem, if_neg hk, State.endPark_chains, hload]

/-- A chain that was not scanning and takes a phase without scan in progress begins none. -/
theorem scanning_of_phase {s u : State} {c d : ChainId} {p : ChainPhase} {x : Scan}
    (h : (u.chains[c.val]).phase = if c = d then p else (s.chains[c.val]).phase) (hp : p ≠ .scanning x)
    (hx : (u.chains[c.val]).phase = .scanning x) : (s.chains[c.val]).phase = .scanning x := by
  rw [h] at hx
  split at hx
  · exact absurd hx hp
  · exact hx

theorem State.updChain_phase (s : State) (d : ChainId) (f : Chain → Chain) (c : ChainId) :
    ((s.updChain d f).chains[c.val]).phase = if c = d then (f s.chains[d.val]).phase else (s.chains[c.val]).phase := by
  rw [State.updChain_getElem]
  split <;> rfl

theorem State.grantOn_phase_of_ne {s : State} {c d : ChainId} (h : c ≠ d) :
    ((s.grantOn d).chains[c.val]).phase = (s.chains[c.val]).phase := by
  obtain ⟨_, _, hgrant⟩ | ⟨t, hphase, hgrant | ⟨j, y, _, _, hgrant⟩⟩ := grantOn_cases s d
  · rw [hgrant, State.grantPark, State.updChain_phase, if_neg h]
  · rw [hgrant, hphase]
  · rw [hgrant, State.grantJob, State.updChain_phase, if_neg h, State.setJob_chains, hphase]

/-- Only a grant on the chain begins a scan there. -/
theorem TableEvent.scanning {s u : State} {c : ChainId} {x : Scan} (h : TableEvent s u)
    (hx : (u.chains[c.val]).phase = .scanning x) : (s.chains[c.val]).phase = .scanning x ∨ u = s.grantOn c := by
  cases h with
  | same => exact .inl hx
  | request q l heffect => exact .inl (heffect.scanning hx)
  | cleared hcleared =>
    obtain ⟨hdisabled | hreset, _⟩ := hcleared.chains c
    · rw [hdisabled] at hx; cases hx
    · rw [hreset] at hx; cases hx
  | warm =>
    rw [State.warmReset_chain] at hx
    cases hp : (s.chains[c.val]).phase <;> simp only [hp, ChainPhase.warm] at hx <;> cases hx
  | resumed =>
    have hphase : ∀ y : Chain, y.resume.phase = y.phase := fun y => by
      unfold Chain.resume
      split <;> rfl
    dsimp only at hx
    rw [State.mapChains_getElem, hphase] at hx
    exact .inl hx
  | ended l => exact .inl (by simpa [State.endSession] using hx)
  | timedOut j y _ _ =>
    refine .inl ?_
    rw [State.finishJob_chain] at hx
    split at hx
    · next hc => exact hc ▸ hx
    · exact hx
  | ticked pins => exact .inl (by simpa [State.tick] using hx)
  | granted d hready =>
    by_cases hd : c = d
    · exact .inr (hd ▸ rfl)
    · exact .inl ((State.grantOn_phase_of_ne hd).symm.trans hx)
  | completed d y tdi hy => exact .inl (scanning_of_phase (State.completeScan_phase _ _ _ _) nofun hx)
  | faulted d y hy =>
    refine .inl (scanning_of_phase (d := d) (p := .fault .check) ?_ nofun hx)
    rw [State.declareFault, State.tellParties_chains, State.updChain_phase]
    by_cases hc : c = d
    · rw [if_pos hc, if_pos hc]
    · rw [if_neg hc, if_neg hc, State.suspectRecords_chains, State.failQueue_chain, if_neg hc]
  | chainReset d y j hy hj =>
    refine .inl (scanning_of_phase (d := d) (p := .ready) ?_ nofun hx)
    rw [State.toReady_getElem]
    by_cases hc : c = d
    · rw [if_pos hc, if_pos hc]
    · rw [if_neg hc, if_neg hc, State.finishJob_chain, if_neg hc, State.updChain_phase, if_neg hc,
        State.resetRecords_chains]
  | returned d hp =>
    refine .inl (scanning_of_phase (d := d) (p := .ready) ?_ nofun hx)
    rw [State.updChain_phase, State.resetRecords_chains]
  | enumStep d step op hp _ =>
    exact .inl (scanning_of_phase (p := .enumerating step) (State.updChain_phase _ _ _ _) nofun hx)
  | enumFault d cause hp =>
    refine .inl (scanning_of_phase (d := d) (p := .fault cause) ?_ nofun hx)
    rw [State.enumFault, State.tellWatchers_chains, State.updChain_phase]
  | closed d ids total pattern hp =>
    refine .inl ?_
    unfold State.closeEnum at hx
    split at hx
    · refine scanning_of_phase (d := d) (p := .fault .directoryFull) ?_ nofun hx
      rw [State.enumFault, State.tellWatchers_chains, State.updChain_phase]
    · refine scanning_of_phase (d := d) (p := .ready) ?_ nofun hx
      rw [State.finishEnum, State.tellWatchers_chains, State.updChain_phase, State.allocate_chains]

theorem State.jobScan_kind_dr {s : State} {c : ChainId} {j : JobId} {y : Job} (h : (s.jobScan c j y).kind = .dr) :
    (s.jobScan c j y).source = .job j ∧ ∃ target out, y.kind = .dr target out := by
  unfold State.jobScan at h ⊢
  cases hk : y.kind with
  | ir target m => rw [hk] at h; cases h
  | dr target out => exact ⟨rfl, target, out, rfl⟩
  | chainReset => rw [hk] at h; cases h

/-- A DR scan that a grant begins has its job RUNNING and only INERT residents beside it. -/
theorem grantJob_dr {s : State} {c : ChainId} {j : JobId} {y : Job} (holdest : s.oldestGrantable c j y)
    (hfit : s.lengthFits y) (hkind : (s.jobScan c j y).kind = .dr) :
    ∃ (j' : JobId) (z : Job) (h : Handle) (out : List Bool), (s.jobScan c j y).source = .job j' ∧
      ((s.grantJob c j y).jobs[j']).job = some z ∧ z.status = .running ∧ z.kind = .dr h out ∧
      (s.grantJob c j y).lengthFits z ∧
      ∀ (k : SlotId) (r : TargetRecord), ((s.grantJob c j y).slots[k]).record = some r → r.chain = c →
        (s.grantJob c j y).handleOf k ≠ h → r.residentClass = some .inert := by
  obtain ⟨hsource, h, out, hk⟩ := State.jobScan_kind_dr hkind
  obtain ⟨_, _, _, _, _, hrun, _⟩ := holdest
  simp only [State.mayRun, hk] at hrun
  have hslots : (s.grantJob c j y).slots = s.slots := by simp [State.grantJob]
  refine ⟨j, { y with status := .running }, h, out, hsource, ?_, rfl, hk, fun h' out' hk' => ?_, fun k r hr hc hne => ?_⟩
  · rw [Fin.getElem_fin, State.grantJob, State.updChain_jobs, State.setJob_getElem, if_pos rfl]
  · obtain ⟨i, r, hn, hd⟩ := hfit h' out' hk'
    refine ⟨i, r, ?_, hd⟩
    rw [State.named_eq_some] at hn ⊢
    rwa [State.handleOf, hslots]
  · rw [hslots] at hr
    rw [State.handleOf, hslots] at hne
    exact hrun.2 k r hr hc hne

/-- Settles O48: a scan is begun by a grant alone; the selection finds the other residents INERT and the job's bits as
long as its target's resident DR length, and granting the job changes no record. -/
theorem drScansAreSafe : Obligations.DrScansAreSafe := by
  intro s t i c x hexec hx hkind hnot
  obtain ⟨u, hevent, hagree⟩ := exec_tableMove i hexec
  rw [hagree.chains] at hx
  obtain hbefore | rfl := hevent.scanning hx
  · exact absurd hbefore hnot
  obtain ⟨h, rest, hgrant⟩ | ⟨v, hphase, hgrant | ⟨j, y, holdest, hfit, hgrant⟩⟩ := grantOn_cases s c
  · rw [hgrant, State.grantPark, Fin.getElem_fin, State.updChain_getElem, if_pos rfl] at hx
    cases hx
    cases hkind
  · rw [hgrant] at hx
    exact absurd ((hphase c).symm.trans hx) hnot
  · have hscan : ((v.grantJob c j y).chains[c.val]).phase = .scanning (v.jobScan c j y) := by
      rw [State.grantJob, State.updChain_phase, if_pos rfl]
      rfl
    rw [hgrant] at hx
    cases hscan.symm.trans hx
    have hslots : t.slots = (v.grantJob c j y).slots := hagree.slots.trans (by rw [hgrant])
    have hjobs : t.jobs = (v.grantJob c j y).jobs := hagree.jobs.trans (by rw [hgrant])
    obtain ⟨j', z, h, out, hsource, hz, hrun, hk, hfits, hothers⟩ := grantJob_dr holdest hfit hkind
    refine ⟨j', z, h, out, hsource, by rw [hjobs]; exact hz, hrun, hk, fun h' out' hk' => ?_, fun k r hr hc hne => ?_⟩
    · obtain ⟨i, r, hn, hd⟩ := hfits h' out' hk'
      refine ⟨i, r, ?_, hd⟩
      rw [State.named_eq_some] at hn ⊢
      rwa [State.handleOf, hslots]
    · rw [hslots] at hr
      rw [State.handleOf, hslots] at hne
      exact hothers k r hr hc hne

end Sys2Proof.Machine
end

section
/-! PROOFS. The laws of the tables, and what keeps them: a change of one table at a time, under the conditions it needs.
Every event of the tables is composed of such changes. -/

namespace Sys2Proof.Machine
set_option Elab.async false

/-! ### The laws, by name -/

/-- The laws of the tables with names. -/
structure State.Tables (s : State) : Prop where
  generations : s.generationsInRange
  suspect : s.suspectLaw
  places : s.placesDistinct
  owners : s.ownersOpen
  limited : s.jobsLimited
  sized : ∀ c : ChainId, (s.chains[c]).phase.targetsLimited
  queues : s.queuesLaw
  runs : s.runsLaw
  targets : s.targetsLaw
  parks : s.parksLaw
  lines : s.linesLaw
  tick : s.tickLaw

theorem State.tables_iff {s : State} : s.Tables ↔ s.tablesLaw :=
  ⟨fun ⟨h1, h2, h3, h4, h5, h6, h7, h8, h9, h10, h11, h12⟩ => ⟨h1, h2, h3, h4, h5, h6, h7, h8, h9, h10, h11, h12⟩,
    fun ⟨h1, h2, h3, h4, h5, h6, h7, h8, h9, h10, h11, h12⟩ => ⟨h1, h2, h3, h4, h5, h6, h7, h8, h9, h10, h11, h12⟩⟩

theorem State.named_congr {s t : State} (h : t.slots = s.slots) (k : Handle) : t.named k = s.named k := by
  simp only [State.named, State.resolve, h]

theorem State.placesDistinct_iff {s : State} :
    s.placesDistinct ↔ ∀ (i j : SlotId) (r q : TargetRecord), (s.slots[i]).record = some r → (s.slots[j]).record = some q →
      r.chain = q.chain → r.position = q.position → i = j := by
  constructor
  · intro h i j r q hr hq hc hp
    by_contra hne
    have hsame := h i j hne
    simp only [State.samePlace, hr, hq, hc, hp, decide_true, Bool.and_self] at hsame
    cases hsame
  · intro h i j hne
    simp only [State.samePlace]
    cases hr : (s.slots[i]).record with
    | none => rfl
    | some r =>
      cases hq : (s.slots[j]).record with
      | none => rfl
      | some q =>
        simp only [Bool.and_eq_false_iff, decide_eq_false_iff_not]
        by_cases hc : r.chain = q.chain
        · exact .inr fun hp => hne (h i j r q hr hq hc hp)
        · exact .inl hc

theorem Job.isDone_eq_false {x : Job} : x.isDone = false ↔ x.isQueued = true ∨ x.status = .running := by
  cases h : x.status <;> simp [Job.isDone, Job.isQueued, h]

theorem Job.not_done_of_running {x : Job} (h : x.status = .running) : x.isDone = false :=
  Job.isDone_eq_false.mpr (.inr h)

theorem Job.not_done_of_queued {x : Job} (h : x.isQueued = true) : x.isDone = false :=
  Job.isDone_eq_false.mpr (.inl h)

theorem Job.not_running_of_queued {x : Job} (h : x.isQueued = true) : x.status ≠ .running := by
  intro hr
  simp [Job.isQueued, hr] at h

/-- A session holds no more jobs when no slot gains one of its own. -/
theorem jobsHeld_le {s t : State} {l : SessionId}
    (h : ∀ (j : JobId) (y : Job), (t.jobs[j]).job = some y → y.session = some l →
      ∃ z, (s.jobs[j]).job = some z ∧ z.session = some l) : t.jobsHeld l ≤ s.jobsHeld l := by
  refine (List.monotone_filter_right _ fun j hj => ?_).length_le
  unfold State.jobFits at hj ⊢
  cases hy : (t.jobs[j]).job with
  | none => rw [hy] at hj; cases hj
  | some y =>
    rw [hy] at hj
    obtain ⟨z, hz, hs⟩ := h j y hy (of_decide_eq_true hj)
    rw [hz]
    exact decide_eq_true hs

/-! ### Changes of sessions, lines, ticks and other fields of chains -/

/-- The chains keep phase, queue and park list; the lines their bindings, with an unbound line's flag; OPEN sessions
stay OPEN. -/
structure Idle (s t : State) : Prop where
  slots : t.slots = s.slots
  jobs : t.jobs = s.jobs
  phase : ∀ c : ChainId, (t.chains[c]).phase = (s.chains[c]).phase
  queue : ∀ c : ChainId, (t.chains[c]).queue = (s.chains[c]).queue
  parks : ∀ c : ChainId, (t.chains[c]).parks = (s.chains[c]).parks
  binding : ∀ e : LineId, (t.lines[e]).binding = (s.lines[e]).binding
  unbound : ∀ e : LineId, (s.lines[e]).binding = none → (t.lines[e]).polarity = (s.lines[e]).polarity ∧
    (t.lines[e]).mode = (s.lines[e]).mode ∧ ((s.lines[e]).flag = false → (t.lines[e]).flag = false)
  opened : ∀ l : SessionId, (s.sessions[l]).isSome = true → (t.sessions[l]).isSome = true
  tick : s.tickLaw → t.tickLaw

theorem State.jobWaits_congr {s t : State} (h : t.jobs = s.jobs) (k : Handle) : t.jobWaits k ↔ s.jobWaits k := by
  simp only [State.jobWaits, h]

theorem State.parkable_congr {s t : State} (hs : t.slots = s.slots) (hj : t.jobs = s.jobs) (c : ChainId) (h : Handle) :
    t.parkable c h ↔ s.parkable c h := by
  simp only [State.parkable, State.jobWaits_congr hj, State.named_congr hs]

theorem State.Tables.idle {s t : State} (hs : s.Tables) (h : Idle s t) : t.Tables where
  generations := by
    have hg := hs.generations
    simp only [State.generationsInRange, h.slots, h.jobs] at hg ⊢
    exact hg
  suspect := by
    have hg := hs.suspect
    simp only [State.suspectLaw, h.slots, h.phase] at hg ⊢
    exact hg
  places := by
    have hg := hs.places
    simp only [State.placesDistinct, State.samePlace, h.slots] at hg ⊢
    exact hg
  owners := by
    obtain ⟨h1, h2⟩ := hs.owners
    simp only [State.ownersOpen, h.slots, h.jobs]
    exact ⟨fun i r l hr ho => h.opened l (h1 i r l hr ho), fun j x l hx ho => h.opened l (h2 j x l hx ho)⟩
  limited l := (jobsHeld_le fun _ y hy hl => ⟨y, h.jobs ▸ hy, hl⟩).trans (hs.limited l)
  sized := by
    simp only [h.phase]
    exact hs.sized
  queues := by
    have hg := hs.queues
    simp only [State.queuesLaw, h.jobs, h.phase, h.queue, h.parks] at hg ⊢
    exact hg
  runs := by
    have hg := hs.runs
    simp only [State.runsLaw, h.jobs, h.phase, h.queue] at hg ⊢
    exact hg
  targets := by
    have hg := hs.targets
    simp only [State.targetsLaw, h.jobs, State.named_congr h.slots] at hg ⊢
    exact hg
  parks := by
    have hg := hs.parks
    simp only [State.parksLaw, State.parkable_congr h.slots h.jobs, h.phase, h.parks] at hg ⊢
    exact hg
  lines := by
    obtain ⟨h1, h2, h3⟩ := hs.lines
    simp only [State.linesLaw, State.named_congr h.slots, h.binding]
    refine ⟨h1, h2, fun e he => ?_⟩
    obtain ⟨hp, hm, hf⟩ := h.unbound e he
    obtain ⟨hp', hm', hf'⟩ := h3 e he
    exact ⟨hp.trans hp', hm.trans hm', hf hf'⟩
  tick := h.tick hs.tick

theorem TablesAgree.idle {u t : State} (h : TablesAgree u t) : Idle u t where
  slots := h.slots
  jobs := h.jobs
  phase c := by rw [h.chains]
  queue c := by rw [h.chains]
  parks c := by rw [h.chains]
  binding e := by rw [h.lines]
  unbound e _ := by rw [h.lines]; exact ⟨rfl, rfl, id⟩
  opened l hl := (h.opened l).trans hl
  tick hu hl := by
    rw [State.live, h.power, h.resetLow] at hl
    exact h.tickRunning.trans (hu hl)

theorem State.Tables.congr {u t : State} (hu : u.Tables) (h : TablesAgree u t) : t.Tables :=
  hu.idle h.idle

/-! ### Changes of park lists -/

/-- New park lists keep the laws when each holds handles a park may be for, once each and none for the park in progress,
on a working chain. -/
theorem State.Tables.withParks {s : State} (hs : s.Tables) {v : Vector Chain 4}
    (hphase : ∀ c : ChainId, (v[c]).phase = (s.chains[c]).phase)
    (hqueue : ∀ c : ChainId, (v[c]).queue = (s.chains[c]).queue)
    (hparks : ∀ c : ChainId, (v[c]).parks.Nodup ∧ (∀ h ∈ (v[c]).parks, s.parkable c h) ∧
      (¬ (s.chains[c]).phase.working → (v[c]).parks = []) ∧
      ∀ (x : Scan) (h : Handle), (s.chains[c]).phase = .scanning x → x.source = .park h → h ∉ (v[c]).parks) :
    ({ s with chains := v } : State).Tables where
  generations := hs.generations
  suspect := by
    have hg := hs.suspect
    simp only [State.suspectLaw, hphase] at hg ⊢
    exact hg
  places := hs.places
  owners := hs.owners
  limited := hs.limited
  sized := by
    simp only [hphase]
    exact hs.sized
  queues := by
    obtain ⟨h1, h2⟩ := hs.queues
    simp only [State.queuesLaw, hphase, hqueue]
    exact ⟨h1, fun c hc => ⟨(h2 c hc).1, (hparks c).2.2.1 hc⟩⟩
  runs := by
    have hg := hs.runs
    simp only [State.runsLaw, hphase, hqueue] at hg ⊢
    exact hg
  targets := hs.targets
  parks := by
    intro c
    obtain ⟨hnodup, hall, -, hscan⟩ := hparks c
    refine ⟨hnodup, hall, fun x h hx hsource => ?_⟩
    have hx' : (s.chains[c]).phase = .scanning x := (hphase c).symm.trans hx
    exact ⟨((hs.parks c).2.2 x h hx' hsource).1, hscan x h hx' hsource⟩
  lines := hs.lines
  tick := hs.tick

/-! ### Records rewritten in place -/

/-- The handle stands in the chain's park list or its park is in progress. -/
def State.parkPending (s : State) (c : ChainId) (h : Handle) : Prop :=
  h ∈ (s.chains[c]).parks ∨ ∃ x, (s.chains[c]).phase = .scanning x ∧ x.source = .park h

theorem State.Tables.parkable_of_pending {s : State} (hs : s.Tables) {c : ChainId} {h : Handle} (hp : s.parkPending c h) :
    s.parkable c h := by
  obtain ⟨_, hall, hscan⟩ := hs.parks c
  obtain hmem | ⟨x, hx, hsource⟩ := hp
  · exact hall h hmem
  · exact (hscan x h hx hsource).1

/-- A record `r` in slot `i` may become `q`: its place stays, its owner is OPEN and it has none on a returning chain, it
stays SUSPECT or not with an UNKNOWN resident just then, a job that waits for it finds it as it was or, RUNNING, in
RELEASING, and one with a park pending keeps state and class. -/
structure RecordStep (s : State) (i : SlotId) (r q : TargetRecord) : Prop where
  chain : q.chain = r.chain
  position : q.position = r.position
  owner : ∀ l, q.state.owner = some l → (s.sessions[l]).isSome = true
  suspect : q.state.isSuspect ↔ r.state.isSuspect
  unknown : q.resident = .unknown ↔ q.state.isSuspect
  returning : (s.chains[r.chain]).phase = .resetting .returning → q.state.owner = none
  targets : ∀ (j : JobId) (x : Job), (s.jobs[j]).job = some x → x.isDone = false →
    x.kind.target = some (s.handleOf i) → q.state = r.state ∨ (x.status = .running ∧ q.state = .releasing)
  parked : s.parkPending r.chain (s.handleOf i) → q.state = r.state ∧ q.residentClass = r.residentClass

section
variable {s : State} {v : Vector RecordSlot 32} {f : SlotId → TargetRecord → TargetRecord}

/-- A handle after records are rewritten in place. -/
theorem named_rewritten (hv : ∀ i : SlotId, v[i] = { s.slots[i] with record := (s.slots[i]).record.map (f i) })
    {h : Handle} {i : SlotId} {q : TargetRecord} :
    ({ s with slots := v } : State).named h = some (i, q) ↔ ∃ r, s.named h = some (i, r) ∧ q = f i r := by
  have hhandle : ({ s with slots := v } : State).handleOf i = s.handleOf i := by
    simp only [State.handleOf, hv]
  rw [State.named_eq_some, hhandle]
  simp only [hv, Option.map_eq_some_iff, State.named_eq_some]
  constructor
  · rintro ⟨⟨r, hr, rfl⟩, hh⟩; exact ⟨r, ⟨hr, hh⟩, rfl⟩
  · rintro ⟨r, ⟨hr, hh⟩, rfl⟩; exact ⟨⟨r, hr, rfl⟩, hh⟩

theorem State.Tables.withRecords (hs : s.Tables)
    (hv : ∀ i : SlotId, v[i] = { s.slots[i] with record := (s.slots[i]).record.map (f i) })
    (hf : ∀ (i : SlotId) (r : TargetRecord), (s.slots[i]).record = some r → RecordStep s i r (f i r)) :
    ({ s with slots := v } : State).Tables := by
  have hrecord : ∀ {i : SlotId} {q : TargetRecord}, (v[i]).record = some q →
      ∃ r, (s.slots[i]).record = some r ∧ q = f i r := fun {i q} hq => by
    rw [hv, Option.map_eq_some_iff] at hq
    obtain ⟨r, hr, rfl⟩ := hq
    exact ⟨r, hr, rfl⟩
  have hpark : ∀ (c : ChainId) (h : Handle), s.parkPending c h → ({ s with slots := v } : State).parkable c h :=
    fun c h hp => by
      obtain ⟨⟨i, r, hn, hc, hstate, hclass⟩, hwaits⟩ := hs.parkable_of_pending hp
      obtain ⟨hr, hh⟩ := State.named_eq_some.mp hn
      subst hc
      subst hh
      obtain ⟨hsame, hsameClass⟩ := (hf i r hr).parked hp
      exact ⟨⟨i, f i r, (named_rewritten hv).mpr ⟨r, hn, rfl⟩, (hf i r hr).chain, hsame.trans hstate,
        hsameClass.trans hclass⟩, hwaits⟩
  refine ⟨⟨fun i => ?_, hs.generations.2⟩, fun i q hq => ?_, State.placesDistinct_iff.mpr fun i j q q' hq hq' hc hp => ?_,
    ⟨fun i q l hq ho => ?_, hs.owners.2⟩, hs.limited, hs.sized, hs.queues, hs.runs,
    ⟨hs.targets.1, fun j x h hx hdone htarget => ?_⟩, fun c => ⟨(hs.parks c).1, fun h hh => hpark c h (.inl hh),
      fun x h hx hsource => ⟨hpark c h (.inr ⟨x, hx, hsource⟩), ((hs.parks c).2.2 x h hx hsource).2⟩⟩,
    ⟨fun e h he => ?_, hs.lines.2⟩, hs.tick⟩
  · change 1 ≤ (v[i]).generation ∧ (v[i]).generation ≤ Config.maxSlotGeneration
    rw [hv]
    exact hs.generations.1 i
  · obtain ⟨r, hr, rfl⟩ := hrecord hq
    obtain ⟨hmay, hsuspect, -, -⟩ := hs.suspect i r hr
    have hstep := hf i r hr
    have hphase : (s.chains[(f i r).chain]).phase = (s.chains[r.chain]).phase :=
      congrArg (fun c : ChainId => (s.chains[c]).phase) hstep.chain
    exact ⟨hphase.symm ▸ hmay, hstep.suspect.trans (hphase.symm ▸ hsuspect), hstep.unknown,
      fun h => hstep.returning (hphase.symm.trans h)⟩
  · obtain ⟨r, hr, rfl⟩ := hrecord hq
    obtain ⟨r', hr', rfl⟩ := hrecord hq'
    rw [(hf i r hr).chain, (hf j r' hr').chain] at hc
    rw [(hf i r hr).position, (hf j r' hr').position] at hp
    exact State.placesDistinct_iff.mp hs.places i j r r' hr hr' hc hp
  · obtain ⟨r, hr, rfl⟩ := hrecord hq
    exact (hf i r hr).owner l ho
  · obtain ⟨i, r, hn, hc, hstate⟩ := hs.targets.2 j x h hx hdone htarget
    obtain ⟨hr, hh⟩ := State.named_eq_some.mp hn
    subst hh
    refine ⟨i, f i r, (named_rewritten hv).mpr ⟨r, hn, rfl⟩, (hf i r hr).chain.trans hc, ?_⟩
    obtain hsame | hreleased := (hf i r hr).targets j x hx hdone htarget
    · rw [hsame]
      exact hstate
    · exact .inr hreleased
  · obtain ⟨i, r, hn⟩ := hs.lines.1 e h he
    exact ⟨i, f i r, (named_rewritten hv).mpr ⟨r, hn, rfl⟩⟩

/-- A record that stays as it is. -/
theorem State.Tables.recordStep_refl (hs : s.Tables) {i : SlotId} {r : TargetRecord} (hr : (s.slots[i]).record = some r) :
    RecordStep s i r r :=
  ⟨rfl, rfl, fun l ho => hs.owners.1 i r l hr ho, Iff.rfl, (hs.suspect i r hr).2.2.1, (hs.suspect i r hr).2.2.2,
    fun _ _ _ _ _ => .inl rfl, fun _ => ⟨rfl, rfl⟩⟩

end

/-! ### Jobs that move on -/

/-- A job `z` may become `y`: it keeps its session or loses it, and while it is not DONE it keeps kind and chain, stays
RUNNING or QUEUED or passes from QUEUED to RUNNING, and loses its session only RUNNING with its target in RELEASING. -/
structure JobStep (s : State) (z y : Job) : Prop where
  session : y.session = z.session ∨ y.session = none
  waits : y.isDone = false → z.isDone = false
  kind : y.isDone = false → y.kind = z.kind
  chain : y.isDone = false → y.chain = z.chain
  running : y.isDone = false → z.status = .running → y.status = .running
  queued : y.isQueued = true → z.isQueued = true
  kept : y.isDone = false → y.session = z.session ∨ (y.status = .running ∧ ∀ h, z.kind.target = some h →
    ∃ i r, s.named h = some (i, r) ∧ r.state = .releasing)

theorem JobStep.refl (s : State) (z : Job) : JobStep s z z :=
  ⟨.inl rfl, id, fun _ => rfl, fun _ => rfl, fun _ => id, id, fun _ => .inl rfl⟩

theorem State.Tables.withJobs {s : State} (hs : s.Tables) {w : Vector JobSlot 16} {v : Vector Chain 4}
    (hgen : ∀ j : JobId, 1 ≤ (w[j]).generation ∧ (w[j]).generation ≤ Config.maxJobGeneration)
    (hstep : ∀ (j : JobId) (y : Job), (w[j]).job = some y → ∃ z, (s.jobs[j]).job = some z ∧ JobStep s z y)
    (hphase : ∀ c : ChainId, (v[c]).phase = (s.chains[c]).phase ∨
      ((s.chains[c]).phase.working ∧ (v[c]).phase.working))
    (hpark : ∀ (c : ChainId) (x : Scan) (h : Handle), (v[c]).phase = .scanning x → x.source = .park h →
      (s.chains[c]).phase = .scanning x)
    (hparks : ∀ c : ChainId, (v[c]).parks = (s.chains[c]).parks)
    (hqueues : ∀ (c : ChainId) (j : JobId), j ∈ (v[c]).queue ↔
      ∃ x, (w[j]).job = some x ∧ x.chain = c ∧ x.isDone = false)
    (hruns : ({ s with jobs := w, chains := v } : State).runsLaw) :
    ({ s with jobs := w, chains := v } : State).Tables := by
  have hworks : ∀ {p p' : ChainPhase}, p' = p ∨ (p.working ∧ p'.working) →
      (p.mayHaveRecords → p'.mayHaveRecords) ∧ (p'.isFault ↔ p.isFault) ∧
        (p' = .resetting .returning → p = .resetting .returning) ∧ (p.targetsLimited → p'.targetsLimited) := by
    rintro p p' (rfl | ⟨rfl | ⟨x, rfl⟩, rfl | ⟨y, rfl⟩⟩)
    · exact ⟨id, Iff.rfl, id, id⟩
    all_goals exact ⟨fun _ => trivial, Iff.rfl, nofun, fun _ => trivial⟩
  have hparkable : ∀ (c : ChainId) (h : Handle), s.parkable c h →
      ({ s with jobs := w, chains := v } : State).parkable c h := by
    rintro c h ⟨hrecord, hwaits⟩
    refine ⟨hrecord, ?_⟩
    rintro ⟨j, y, hy, hdone, htarget⟩
    obtain ⟨z, hz, hzy⟩ := hstep j y hy
    exact hwaits ⟨j, z, hz, hzy.waits hdone, hzy.kind hdone ▸ htarget⟩
  refine ⟨⟨hs.generations.1, hgen⟩, fun i r hr => ?_, hs.places, ⟨hs.owners.1, fun j y l hy hl => ?_⟩, fun l => ?_,
    fun c => (hworks (hphase c)).2.2.2 (hs.sized c), ⟨hqueues, fun c hc => ?_⟩, hruns, ⟨fun j y hy hq => ?_,
      fun j y h hy hdone htarget => ?_⟩, fun c => ⟨?_, fun h hh => ?_, fun x h hx hsource => ?_⟩, hs.lines, hs.tick⟩
  · obtain ⟨hmay, hsuspect, hunknown, hreturning⟩ := hs.suspect i r hr
    obtain ⟨hmay', hfault', hreturning', -⟩ := hworks (hphase r.chain)
    exact ⟨hmay' hmay, hsuspect.trans hfault'.symm, hunknown, fun h => hreturning (hreturning' h)⟩
  · obtain ⟨z, hz, hzy⟩ := hstep j y hy
    obtain hsame | hnone := hzy.session
    · exact hs.owners.2 j z l hz (hsame.symm.trans hl)
    · cases hnone.symm.trans hl
  · refine (jobsHeld_le fun j y hy hl => ?_).trans (hs.limited l)
    obtain ⟨z, hz, hzy⟩ := hstep j y hy
    obtain hsame | hnone := hzy.session
    · exact ⟨z, hz, hsame.symm.trans hl⟩
    · cases hnone.symm.trans hl
  · obtain hsame | ⟨-, hworking⟩ := hphase c
    · obtain ⟨hqueue, hempty⟩ := hs.queues.2 c (hsame ▸ hc)
      refine ⟨List.eq_nil_iff_forall_not_mem.mpr fun j hj => ?_, (hparks c).trans hempty⟩
      obtain ⟨y, hy, hchain, hdone⟩ := (hqueues c j).mp hj
      obtain ⟨z, hz, hzy⟩ := hstep j y hy
      have hmem := (hs.queues.1 c j).mpr ⟨z, hz, (hzy.chain hdone).symm.trans hchain, hzy.waits hdone⟩
      rw [hqueue] at hmem
      cases hmem
    · exact absurd hworking hc
  · obtain ⟨z, hz, hzy⟩ := hstep j y hy
    obtain hsame | ⟨hrunning, -⟩ := hzy.kept (Job.not_done_of_queued hq)
    · rw [hsame]
      exact hs.targets.1 j z hz (hzy.queued hq)
    · exact absurd hrunning (Job.not_running_of_queued hq)
  · obtain ⟨z, hz, hzy⟩ := hstep j y hy
    have htarget' : z.kind.target = some h := hzy.kind hdone ▸ htarget
    obtain ⟨i, r, hn, hc, hstate⟩ := hs.targets.2 j z h hz (hzy.waits hdone) htarget'
    refine ⟨i, r, hn, hc.trans (hzy.chain hdone).symm, ?_⟩
    obtain ⟨l, hl, hclaimed⟩ | ⟨hrunning, hreleasing⟩ := hstate
    · obtain hsame | ⟨hrunning, hreleasing⟩ := hzy.kept hdone
      · exact .inl ⟨l, hsame.trans hl, hclaimed⟩
      · obtain ⟨i', r', hn', hr'⟩ := hreleasing h htarget'
        cases hn.symm.trans hn'
        exact .inr ⟨hrunning, hr'⟩
    · exact .inr ⟨hzy.running hdone hrunning, hreleasing⟩
  · change (v[c]).parks.Nodup
    rw [hparks]
    exact (hs.parks c).1
  · change h ∈ (v[c]).parks at hh
    rw [hparks] at hh
    exact hparkable c h ((hs.parks c).2.1 h hh)
  · change _ ∧ h ∉ (v[c]).parks
    rw [hparks]
    obtain ⟨hable, hnot⟩ := (hs.parks c).2.2 x h (hpark c x h hx hsource) hsource
    exact ⟨hparkable c h hable, hnot⟩

end Sys2Proof.Machine
end

section
/-! PROOFS. What keeps the laws of the tables at the Job Table: jobs freed, finished, orphaned, counted, granted and
entered (R77, R78, R84, R88, R90 to R92, R98). -/

namespace Sys2Proof.Machine
set_option Elab.async false

section
variable {s : State}

/-! ### Facts about jobs and queues -/

theorem JobSlot.freed_generation {x : JobSlot} (h : 1 ≤ x.generation ∧ x.generation ≤ Config.maxJobGeneration) :
    1 ≤ x.freed.generation ∧ x.freed.generation ≤ Config.maxJobGeneration := by
  simp only [JobSlot.freed, nextJobGeneration]
  split <;> simp only [Config.maxJobGeneration] at * <;> omega

theorem JobSlot.finished_generation {x : JobSlot} (h : 1 ≤ x.generation ∧ x.generation ≤ Config.maxJobGeneration)
    (o : JobOutcome) (data : List Bool) :
    1 ≤ (x.finished o data).generation ∧ (x.finished o data).generation ≤ Config.maxJobGeneration := by
  unfold JobSlot.finished
  split
  · split
    · exact h
    · exact JobSlot.freed_generation h
  · exact h

/-- A finished slot holds a DONE job of the session that held it, or none. -/
theorem JobSlot.finished_job {x : JobSlot} {o : JobOutcome} {data : List Bool} {y : Job}
    (h : (x.finished o data).job = some y) : ∃ z, x.job = some z ∧ y.session = z.session ∧ y.isDone = true := by
  unfold JobSlot.finished at h
  split at h
  · next z hz =>
    split at h
    · cases h
      exact ⟨z, hz, rfl, rfl⟩
    · cases h
  · next hz => rw [hz] at h; cases h

/-- A job that waits stands in its own chain's queue alone. -/
theorem State.Tables.queue_unique (hs : s.Tables) {c d : ChainId} {j : JobId} (hc : j ∈ (s.chains[c]).queue)
    (hd : j ∈ (s.chains[d]).queue) : c = d := by
  obtain ⟨x, hx, hxc, _⟩ := (hs.queues.1 c j).mp hc
  obtain ⟨y, hy, hyd, _⟩ := (hs.queues.1 d j).mp hd
  cases hx.symm.trans hy
  exact hxc.symm.trans hyd

theorem State.Tables.source_mem (hs : s.Tables) {c : ChainId} {x : Scan} {j : JobId}
    (hp : (s.chains[c]).phase = .scanning x) (hj : x.source = .job j) : j ∈ (s.chains[c]).queue :=
  List.mem_of_mem_head? ((hs.runs.1 c x j hp hj).1)

/-- The job of the scan in progress is the only one RUNNING on its chain. -/
theorem State.Tables.source_of_running (hs : s.Tables) {c : ChainId} {x : Scan} {j : JobId} {y : Job}
    (hp : (s.chains[c]).phase = .scanning x) (hy : (s.jobs[j]).job = some y) (hc : y.chain = c)
    (hr : y.status = .running) : x.source = .job j := by
  obtain ⟨x', hx', hsource⟩ := hs.runs.2 j y hy hr
  subst hc
  cases hp.symm.trans hx'
  exact hsource

/-! ### Jobs freed -/

theorem State.Tables.freeJobs (hs : s.Tables) {p : JobId → Job → Bool}
    (hp : ∀ (j : JobId) (y : Job), (s.jobs[j]).job = some y → y.status = .running → p j y = false) :
    (s.freeJobs p).Tables := by
  have hjobs : ∀ j : JobId, (s.freeJobs p).jobs[j] = if s.jobFits p j then (s.jobs[j]).freed else s.jobs[j] :=
    fun j => State.freeJobs_getElem _ p j
  have hchain : ∀ c : ChainId, (s.freeJobs p).chains[c] =
      { s.chains[c] with queue := (s.chains[c]).queue.filter fun j => !s.jobFits p j } := fun c =>
    State.freeJobs_chain _ p c
  have hback : ∀ (j : JobId) (y : Job), ((s.freeJobs p).jobs[j]).job = some y ↔
      s.jobFits p j = false ∧ (s.jobs[j]).job = some y := fun j y => by
    rw [hjobs]
    cases hfit : s.jobFits p j with
    | true => exact ⟨nofun, fun h => nomatch h.1⟩
    | false => exact ⟨fun h => ⟨rfl, h⟩, fun h => h.2⟩
  have hrunning : ∀ (j : JobId) (y : Job), (s.jobs[j]).job = some y → y.status = .running → s.jobFits p j = false :=
    fun j y hy hr => by
      rw [State.jobFits, hy]
      exact hp j y hy hr
  refine hs.withJobs (w := (s.freeJobs p).jobs) (v := (s.freeJobs p).chains) (fun j => ?_) (fun j y hy => ?_)
    (fun c => .inl ?_) (fun c x h hx _ => ?_) (fun c => ?_) (fun c j => ?_) ⟨fun c x j hx hsource => ?_, fun j y hy hr => ?_⟩
  · rw [hjobs]
    split
    · exact JobSlot.freed_generation (hs.generations.2 j)
    · exact hs.generations.2 j
  · exact ⟨y, ((hback j y).mp hy).2, .refl s y⟩
  · rw [hchain]
  · rw [hchain] at hx
    exact hx
  · rw [hchain]
  · rw [hchain]
    simp only [List.mem_filter, Bool.not_eq_true', hs.queues.1 c j, hback]
    constructor
    · rintro ⟨⟨y, hy, hc, hd⟩, hfit⟩; exact ⟨y, ⟨hfit, hy⟩, hc, hd⟩
    · rintro ⟨y, ⟨hfit, hy⟩, hc, hd⟩; exact ⟨⟨y, hy, hc, hd⟩, hfit⟩
  · change ((s.freeJobs p).chains[c]).phase = _ at hx
    rw [hchain] at hx
    obtain ⟨hhead, y, hy, hr⟩ := hs.runs.1 c x j hx hsource
    have hfit := hrunning j y hy hr
    refine ⟨?_, y, (hback j y).mpr ⟨hfit, hy⟩, hr⟩
    change ((s.freeJobs p).chains[c]).queue.head? = _
    rw [hchain]
    obtain ⟨rest, hrest⟩ := List.head?_eq_some_iff.mp hhead
    simp only [hrest, List.filter_cons, hfit, Bool.not_false, if_true, List.head?_cons]
  · obtain ⟨x, hx, hsource⟩ := hs.runs.2 j y ((hback j y).mp hy).2 hr
    refine ⟨x, ?_, hsource⟩
    change ((s.freeJobs p).chains[y.chain]).phase = _
    rw [hchain]
    exact hx

/-! ### Jobs finished -/

/-- The jobs of some slots of a chain's queue finish and leave it; the scan in progress goes on without one of them as
its source, or ends with its source among them. -/
theorem State.Tables.withFinished (hs : s.Tables) {w : Vector JobSlot 16} {v : Vector Chain 4} {c : ChainId}
    {p : JobId → Bool}
    (hin : ∀ j : JobId, p j = true → j ∈ (s.chains[c]).queue ∧ ∃ o data, w[j] = (s.jobs[j]).finished o data)
    (hout : ∀ j : JobId, p j = false → w[j] = s.jobs[j])
    (hother : ∀ d : ChainId, d ≠ c → v[d] = s.chains[d])
    (hqueue : (v[c]).queue = (s.chains[c]).queue.filter fun j => !p j)
    (hparks : (v[c]).parks = (s.chains[c]).parks)
    (hphase : ((v[c]).phase = (s.chains[c]).phase ∧
        ∀ x j, (s.chains[c]).phase = .scanning x → x.source = .job j → p j = false) ∨
      ((v[c]).phase = .ready ∧ (s.chains[c]).phase.working ∧
        ∀ x j, (s.chains[c]).phase = .scanning x → x.source = .job j → p j = true)) :
    ({ s with jobs := w, chains := v } : State).Tables := by
  have hwait : ∀ (j : JobId) (y : Job), (w[j]).job = some y → y.isDone = false →
      p j = false ∧ (s.jobs[j]).job = some y := fun j y hy hd => by
    cases hpj : p j with
    | true =>
      obtain ⟨_, o, data, hw⟩ := hin j hpj
      rw [hw] at hy
      obtain ⟨_, _, _, hdone⟩ := JobSlot.finished_job hy
      rw [hd] at hdone
      cases hdone
    | false => exact ⟨rfl, hout j hpj ▸ hy⟩
  have hfilter : ∀ (d : ChainId) (j : JobId), j ∈ (v[d]).queue ↔ j ∈ (s.chains[d]).queue ∧ p j = false := fun d j => by
    by_cases hd : d = c
    · subst hd
      simp only [hqueue, List.mem_filter, Bool.not_eq_true']
    · rw [hother d hd]
      refine ⟨fun hj => ⟨hj, Bool.eq_false_iff.mpr fun hpj => hd ?_⟩, fun h => h.1⟩
      exact hs.queue_unique hj (hin j hpj).1
  refine hs.withJobs (fun j => ?_) (fun j y hy => ?_) (fun d => ?_) (fun d x h hx hsource => ?_) (fun d => ?_)
    (fun d j => ?_) ⟨fun d x j hx hsource => ?_, fun j y hy hr => ?_⟩
  · cases hpj : p j with
    | true =>
      obtain ⟨_, o, data, hw⟩ := hin j hpj
      rw [hw]
      exact JobSlot.finished_generation (hs.generations.2 j) o data
    | false => rw [hout j hpj]; exact hs.generations.2 j
  · cases hpj : p j with
    | true =>
      obtain ⟨_, o, data, hw⟩ := hin j hpj
      rw [hw] at hy
      obtain ⟨z, hz, hsession, hdone⟩ := JobSlot.finished_job hy
      have hwaits : ¬ y.isDone = false := by rw [hdone]; exact Bool.noConfusion
      exact ⟨z, hz, .inl hsession, fun h => absurd h hwaits, fun h => absurd h hwaits, fun h => absurd h hwaits,
        fun h => absurd h hwaits, fun h => absurd (Job.not_done_of_queued h) hwaits, fun h => absurd h hwaits⟩
    | false =>
      rw [hout j hpj] at hy
      exact ⟨y, hy, .refl s y⟩
  · by_cases hd : d = c
    · subst hd
      obtain ⟨hsame, _⟩ | ⟨hready, hworking, _⟩ := hphase
      · exact .inl hsame
      · exact .inr ⟨hworking, .inl hready⟩
    · rw [hother d hd]
      exact .inl rfl
  · by_cases hd : d = c
    · subst hd
      obtain ⟨hsame, _⟩ | ⟨hready, _, _⟩ := hphase
      · exact hsame.symm.trans hx
      · cases hready.symm.trans hx
    · rw [hother d hd] at hx
      exact hx
  · by_cases hd : d = c
    · subst hd; exact hparks
    · rw [hother d hd]
  · rw [hfilter, hs.queues.1 d j]
    constructor
    · rintro ⟨⟨y, hy, hc, hdone⟩, hpj⟩
      exact ⟨y, by rw [hout j hpj]; exact hy, hc, hdone⟩
    · rintro ⟨y, hy, hc, hdone⟩
      obtain ⟨hpj, hy'⟩ := hwait j y hy hdone
      exact ⟨⟨y, hy', hc, hdone⟩, hpj⟩
  · have hscan : (s.chains[d]).phase = .scanning x ∧ p j = false ∧ (v[d]).queue.head? = (s.chains[d]).queue.head? := by
      by_cases hd : d = c
      · subst hd
        obtain ⟨hsame, hpj⟩ | ⟨hready, _, _⟩ := hphase
        · have hx' := hsame.symm.trans hx
          refine ⟨hx', hpj x j hx' hsource, ?_⟩
          obtain ⟨hhead, _⟩ := hs.runs.1 d x j hx' hsource
          obtain ⟨rest, hrest⟩ := List.head?_eq_some_iff.mp hhead
          simp only [hqueue, hrest, List.filter_cons, hpj x j hx' hsource, Bool.not_false, if_true, List.head?_cons]
        · cases hready.symm.trans hx
      · change (v[d]).phase = _ at hx
        rw [hother d hd] at hx
        refine ⟨hx, Bool.eq_false_iff.mpr fun hpj => hd ?_, by rw [hother d hd]⟩
        exact hs.queue_unique (hs.source_mem hx hsource) (hin j hpj).1
    obtain ⟨hx', hpj, hqueue'⟩ := hscan
    obtain ⟨hhead, y, hy, hr⟩ := hs.runs.1 d x j hx' hsource
    exact ⟨hqueue'.trans hhead, y, by rw [hout j hpj]; exact hy, hr⟩
  · obtain ⟨hpj, hy'⟩ := hwait j y hy (Job.not_done_of_running hr)
    obtain ⟨x, hx, hsource⟩ := hs.runs.2 j y hy' hr
    refine ⟨x, ?_, hsource⟩
    by_cases hd : y.chain = c
    · obtain ⟨hsame, _⟩ | ⟨_, _, hsources⟩ := hphase
      · subst hd; exact hsame.trans hx
      · have htrue := hsources x j (hd ▸ hx) hsource
        rw [hpj] at htrue
        cases htrue
    · change (v[y.chain]).phase = _
      rw [hother _ hd]
      exact hx

/-- A QUEUED job finishes (R87 step 3, R90). -/
theorem State.Tables.finishQueued (hs : s.Tables) {j : JobId} {y : Job} (hy : (s.jobs[j]).job = some y)
    (hq : y.isQueued = true) (o : JobOutcome) (data : List Bool) : (s.finishJob y.chain j o data).Tables := by
  refine hs.withFinished (w := (s.finishJob y.chain j o data).jobs) (v := (s.finishJob y.chain j o data).chains)
    (c := y.chain) (p := fun k => decide (k = j)) (fun k hk => ?_) (fun k hk => ?_) (fun d hd => ?_) ?_ ?_
    (.inl ⟨?_, fun x k hx hsource => ?_⟩)
  · rw [decide_eq_true_eq] at hk
    subst hk
    refine ⟨(hs.queues.1 _ k).mpr ⟨y, hy, rfl, Job.not_done_of_queued hq⟩, o, data, ?_⟩
    rw [Fin.getElem_fin, State.finishJob_getElem, if_pos rfl]
    rfl
  · rw [Fin.getElem_fin, State.finishJob_getElem, if_neg (of_decide_eq_false hk)]
    rfl
  · rw [Fin.getElem_fin, State.finishJob_chain, if_neg hd]
    rfl
  · rw [Fin.getElem_fin, State.finishJob_chain, if_pos rfl]
    simp only [ne_eq, decide_not]
    rfl
  · rw [Fin.getElem_fin, State.finishJob_chain, if_pos rfl]
    rfl
  · rw [Fin.getElem_fin, State.finishJob_chain, if_pos rfl]
    rfl
  · refine decide_eq_false fun hk => ?_
    subst hk
    obtain ⟨_, z, hz, hr⟩ := hs.runs.1 _ x k hx hsource
    cases hy.symm.trans hz
    exact Job.not_running_of_queued hq hr

/-- The job of the scan in progress finishes and its chain is READY (R91). -/
theorem State.Tables.finishSource (hs : s.Tables) {c : ChainId} {x : Scan} {j : JobId}
    (hp : (s.chains[c]).phase = .scanning x) (hj : x.source = .job j) (o : JobOutcome) (data : List Bool) :
    ((s.finishJob c j o data).toReady c).Tables := by
  refine hs.withFinished (w := ((s.finishJob c j o data).toReady c).jobs)
    (v := ((s.finishJob c j o data).toReady c).chains) (c := c) (p := fun k => decide (k = j)) (fun k hk => ?_)
    (fun k hk => ?_) (fun d hd => ?_) ?_ ?_ (.inr ⟨?_, .inr ⟨x, hp⟩, fun x' k hx hsource => ?_⟩)
  · rw [decide_eq_true_eq] at hk
    subst hk
    refine ⟨hs.source_mem hp hj, o, data, ?_⟩
    rw [State.toReady_jobs, Fin.getElem_fin, State.finishJob_getElem, if_pos rfl]
    rfl
  · rw [State.toReady_jobs, Fin.getElem_fin, State.finishJob_getElem, if_neg (of_decide_eq_false hk)]
    rfl
  · rw [Fin.getElem_fin, State.toReady_getElem, if_neg hd, State.finishJob_chain, if_neg hd]
    rfl
  · rw [Fin.getElem_fin, State.toReady_getElem, if_pos rfl, State.finishJob_chain, if_pos rfl]
    simp only [ne_eq, decide_not]
    rfl
  · rw [Fin.getElem_fin, State.toReady_getElem, if_pos rfl, State.finishJob_chain, if_pos rfl]
    rfl
  · rw [Fin.getElem_fin, State.toReady_getElem, if_pos rfl]
  · cases hp.symm.trans hx
    cases hj.symm.trans hsource
    exact decide_eq_true rfl

/-- Every job of a working chain's queue finishes, the RUNNING one included, and the chain is READY. -/
theorem State.Tables.failQueue (hs : s.Tables) {c : ChainId} (hp : (s.chains[c]).phase.working) :
    ((s.failQueue c).toReady c).Tables := by
  refine (hs.withFinished (w := ((s.failQueue c).toReady c).jobs) (v := ((s.failQueue c).toReady c).chains) (c := c)
    (p := fun k => decide (k ∈ (s.chains[c]).queue)) (fun k hk => ?_) (fun k hk => ?_) (fun d hd => ?_) ?_ ?_
    (.inr ⟨?_, hp, fun x k hx hsource => decide_eq_true (hs.source_mem hx hsource)⟩)).congr
    ⟨by simp, by simp, by simp, by simp, rfl, rfl, by simp, by simp⟩
  · rw [decide_eq_true_eq] at hk
    refine ⟨hk, .chainFault, [], ?_⟩
    rw [State.toReady_jobs, Fin.getElem_fin, State.failQueue_getElem]
    exact if_pos hk
  · rw [State.toReady_jobs, Fin.getElem_fin, State.failQueue_getElem]
    exact if_neg (of_decide_eq_false hk)
  · rw [Fin.getElem_fin, State.toReady_getElem, if_neg hd, State.failQueue_chain, if_neg hd]
    rfl
  · rw [Fin.getElem_fin, State.toReady_getElem, if_pos rfl, State.failQueue_chain, if_pos rfl]
    refine (List.filter_eq_nil_iff.mpr fun k hk => ?_).symm
    simp only [hk, decide_true, Bool.not_true, Bool.false_eq_true, not_false_eq_true]
  · rw [Fin.getElem_fin, State.toReady_getElem, if_pos rfl, State.failQueue_chain, if_pos rfl]
    rfl
  · rw [Fin.getElem_fin, State.toReady_getElem, if_pos rfl]

/-- A park in progress ends and its chain is READY. -/
theorem State.Tables.endScan (hs : s.Tables) {c : ChainId} {x : Scan} {h : Handle}
    (hp : (s.chains[c]).phase = .scanning x) (hsource : x.source = .park h) : (s.toReady c).Tables := by
  refine hs.withFinished (w := s.jobs) (v := (s.toReady c).chains) (c := c) (p := fun _ => false) nofun
    (fun _ _ => rfl) (fun d hd => ?_) ?_ ?_ (.inr ⟨?_, .inr ⟨x, hp⟩, fun x' j hx hj => ?_⟩)
  · rw [Fin.getElem_fin, State.toReady_getElem, if_neg hd]
    rfl
  · rw [Fin.getElem_fin, State.toReady_getElem, if_pos rfl]
    exact (List.filter_eq_self.mpr fun _ _ => rfl).symm
  · rw [Fin.getElem_fin, State.toReady_getElem, if_pos rfl]
    rfl
  · rw [Fin.getElem_fin, State.toReady_getElem, if_pos rfl]
  · cases hp.symm.trans hx
    cases hsource.symm.trans hj

/-! ### Jobs rewritten in place -/

/-- Every job keeps its chain and stays QUEUED, RUNNING or DONE. -/
theorem State.Tables.withSameJobs (hs : s.Tables) {w : Vector JobSlot 16} {g : Job → Job}
    (hw : ∀ j : JobId, w[j] = { s.jobs[j] with job := (s.jobs[j]).job.map g })
    (hg : ∀ (j : JobId) (z : Job), (s.jobs[j]).job = some z → JobStep s z (g z) ∧ (g z).chain = z.chain ∧
      (g z).isDone = z.isDone ∧ ((g z).status = .running ↔ z.status = .running)) :
    ({ s with jobs := w } : State).Tables := by
  have hback : ∀ {j : JobId} {y : Job}, (w[j]).job = some y → ∃ z, (s.jobs[j]).job = some z ∧ y = g z := fun {j y} hy => by
    rw [hw, Option.map_eq_some_iff] at hy
    obtain ⟨z, hz, rfl⟩ := hy
    exact ⟨z, hz, rfl⟩
  have hfwd : ∀ {j : JobId} {z : Job}, (s.jobs[j]).job = some z → (w[j]).job = some (g z) := fun {j z} hz => by
    rw [hw, hz, Option.map_some]
  refine hs.withJobs (v := s.chains) (fun j => ?_) (fun j y hy => ?_) (fun _ => .inl rfl) (fun _ _ _ hx _ => hx)
    (fun _ => rfl) (fun c j => (hs.queues.1 c j).trans ?_) ⟨fun c x j hx hsource => ?_, fun j y hy hr => ?_⟩
  · rw [hw]
    exact hs.generations.2 j
  · obtain ⟨z, hz, rfl⟩ := hback hy
    exact ⟨z, hz, (hg j z hz).1⟩
  · constructor
    · rintro ⟨z, hz, hc, hd⟩
      obtain ⟨-, hchain, hdone, -⟩ := hg j z hz
      exact ⟨g z, hfwd hz, hchain.trans hc, hdone.trans hd⟩
    · rintro ⟨y, hy, hc, hd⟩
      obtain ⟨z, hz, rfl⟩ := hback hy
      obtain ⟨-, hchain, hdone, -⟩ := hg j z hz
      exact ⟨z, hz, hchain.symm.trans hc, hdone.symm.trans hd⟩
  · obtain ⟨hhead, z, hz, hr⟩ := hs.runs.1 c x j hx hsource
    exact ⟨hhead, g z, hfwd hz, (hg j z hz).2.2.2.mpr hr⟩
  · obtain ⟨z, hz, rfl⟩ := hback hy
    obtain ⟨-, hchain, -, hrunning⟩ := hg j z hz
    obtain ⟨x, hx, hsource⟩ := hs.runs.2 j z hz (hrunning.mp hr)
    exact ⟨x, (congrArg (fun c : ChainId => (s.chains[c]).phase) hchain).trans hx, hsource⟩

theorem Job.tick_fields (z : Job) : z.tick.session = z.session ∧ z.tick.kind = z.kind ∧ z.tick.chain = z.chain ∧
    z.tick.isDone = z.isDone ∧ z.tick.isQueued = z.isQueued ∧ (z.tick.status = .running ↔ z.status = .running) := by
  unfold Job.tick
  split <;> simp_all [Job.isDone, Job.isQueued]

/-- The wait timers count (R187). -/
theorem State.Tables.tickJobs (hs : s.Tables) : (s.mapJobs fun _ x => { x with job := x.job.map Job.tick }).Tables := by
  refine hs.withSameJobs (g := Job.tick) (fun j => by rw [Fin.getElem_fin, Vector.getElem_ofFn]) fun j z _ => ?_
  obtain ⟨hsession, hkind, hchain, hdone, hqueued, hrunning⟩ := z.tick_fields
  exact ⟨⟨.inl hsession, fun h => hdone.symm.trans h, fun _ => hkind, fun _ => hchain, fun _ => hrunning.mpr,
    fun h => hqueued.symm.trans h, fun _ => .inl hsession⟩, hchain, hdone, hrunning⟩

/-- A session's jobs become orphans once those that wait are RUNNING with their targets in RELEASING (R66, R98). -/
theorem State.Tables.orphan (hs : s.Tables) {l : SessionId}
    (h : ∀ (j : JobId) (z : Job), (s.jobs[j]).job = some z → z.session = some l → z.isDone = false →
      z.status = .running ∧ ∀ k, z.kind.target = some k → ∃ i r, s.named k = some (i, r) ∧ r.state = .releasing) :
    (s.mapJobs fun _ x => x.orphaned l).Tables := by
  refine hs.withSameJobs (g := fun z => if z.session = some l then { z with session := none } else z)
    (fun j => by rw [Fin.getElem_fin, Vector.getElem_ofFn]; rfl) fun j z hz => ?_
  by_cases hl : z.session = some l
  · rw [if_pos hl]
    refine ⟨⟨.inr rfl, id, fun _ => rfl, fun _ => rfl, fun _ => id, id, fun hd => .inr ?_⟩, rfl, rfl, Iff.rfl⟩
    exact h j z hz hl hd
  · rw [if_neg hl]
    exact ⟨.refl s z, rfl, rfl, Iff.rfl⟩

/-! ### A job granted -/

/-- A QUEUED job becomes RUNNING at the head of its READY chain's queue, with its scan in progress (R88). -/
theorem State.Tables.grantJob (hs : s.Tables) {c : ChainId} {j : JobId} {y : Job} (hp : (s.chains[c]).phase = .ready)
    (hj : j ∈ (s.chains[c]).queue) (hy : (s.jobs[j]).job = some y) (hq : y.isQueued = true)
    (hsource : (s.jobScan c j y).source = .job j) : (s.grantJob c j y).Tables := by
  have hjob : ∀ k : JobId, (s.grantJob c j y).jobs[k] =
      if k = j then { s.jobs[j] with job := some { y with status := .running } } else s.jobs[k] := fun k => by
    rw [Fin.getElem_fin, State.grantJob, State.updChain_jobs, State.setJob_getElem]
    rfl
  have hchain : ∀ d : ChainId, (s.grantJob c j y).chains[d] =
      if d = c then
        Chain.beginOp { s.chains[c] with
          phase := .scanning (s.jobScan c j y), queue := j :: (s.chains[c]).queue.filter fun k => k ≠ j }
      else s.chains[d] := fun d => by
    rw [Fin.getElem_fin, State.grantJob, State.updChain_getElem]
    rfl
  have hyc : y.chain = c := by
    obtain ⟨z, hz, hc, -⟩ := (hs.queues.1 c j).mp hj
    cases hy.symm.trans hz
    exact hc
  have hback : ∀ (k : JobId) (x : Job), ((s.grantJob c j y).jobs[k]).job = some x ↔
      (k = j ∧ x = { y with status := .running }) ∨ (k ≠ j ∧ (s.jobs[k]).job = some x) := fun k x => by
    rw [hjob]
    by_cases hk : k = j
    · simp only [hk, if_true, Option.some.injEq, true_and, ne_eq, not_true_eq_false, false_and, or_false, eq_comm]
    · simp only [hk, if_false, false_and, ne_eq, not_false_eq_true, true_and, false_or]
  refine hs.withJobs (w := (s.grantJob c j y).jobs) (v := (s.grantJob c j y).chains) (fun k => ?_) (fun k x hx => ?_)
    (fun d => ?_) (fun d x h hx hpark => ?_) (fun d => ?_) (fun d k => ?_) ⟨fun d x k hx hk => ?_, fun k x hx hr => ?_⟩
  · rw [hjob]
    split
    · exact hs.generations.2 j
    · exact hs.generations.2 k
  · obtain ⟨rfl, rfl⟩ | ⟨-, hx'⟩ := (hback k x).mp hx
    · exact ⟨y, hy, .inl rfl, fun _ => Job.not_done_of_queued hq, fun _ => rfl, fun _ => rfl, fun _ _ => rfl,
        nofun, fun _ => .inl rfl⟩
    · exact ⟨x, hx', .refl s x⟩
  · rw [hchain]
    by_cases hd : d = c
    · rw [if_pos hd, hd]
      exact .inr ⟨.inl hp, .inr ⟨_, rfl⟩⟩
    · rw [if_neg hd]
      exact .inl rfl
  · rw [hchain] at hx
    by_cases hd : d = c
    · rw [if_pos hd] at hx
      cases hx
      cases hsource.symm.trans hpark
    · rwa [if_neg hd] at hx
  · rw [hchain]
    by_cases hd : d = c
    · rw [if_pos hd, hd]
      rfl
    · rw [if_neg hd]
  · have hmem : k ∈ ((s.grantJob c j y).chains[d]).queue ↔ k ∈ (s.chains[d]).queue := by
      rw [hchain]
      by_cases hd : d = c
      · rw [if_pos hd, hd]
        by_cases hk : k = j
        · subst hk
          exact iff_of_true List.mem_cons_self hj
        · simp [Chain.beginOp, hk]
      · rw [if_neg hd]
    rw [hmem, hs.queues.1 d k]
    constructor
    · rintro ⟨x, hx, hc, hdone⟩
      by_cases hk : k = j
      · subst hk
        cases hy.symm.trans hx
        exact ⟨_, (hback k _).mpr (.inl ⟨rfl, rfl⟩), hc, rfl⟩
      · exact ⟨x, (hback k x).mpr (.inr ⟨hk, hx⟩), hc, hdone⟩
    · rintro ⟨x, hx, hc, hdone⟩
      obtain ⟨rfl, rfl⟩ | ⟨-, hx'⟩ := (hback k x).mp hx
      · exact ⟨y, hy, hc, Job.not_done_of_queued hq⟩
      · exact ⟨x, hx', hc, hdone⟩
  · change ((s.grantJob c j y).chains[d]).phase = _ at hx
    change ((s.grantJob c j y).chains[d]).queue.head? = _ ∧ _
    rw [hchain] at hx ⊢
    by_cases hd : d = c
    · rw [if_pos hd] at hx ⊢
      cases hx
      cases hsource.symm.trans hk
      exact ⟨rfl, _, (hback j _).mpr (.inl ⟨rfl, rfl⟩), rfl⟩
    · rw [if_neg hd] at hx ⊢
      obtain ⟨hhead, x', hx', hr⟩ := hs.runs.1 d x k hx hk
      refine ⟨hhead, x', (hback k x').mpr (.inr ⟨?_, hx'⟩), hr⟩
      rintro rfl
      cases hy.symm.trans hx'
      exact Job.not_running_of_queued hq hr
  · change ∃ x', ((s.grantJob c j y).chains[x.chain]).phase = _ ∧ _
    obtain ⟨rfl, rfl⟩ | ⟨hk, hx'⟩ := (hback k x).mp hx
    · exact ⟨_, by rw [hchain, if_pos hyc]; rfl, hsource⟩
    · obtain ⟨z, hz, hzk⟩ := hs.runs.2 k x hx' hr
      refine ⟨z, ?_, hzk⟩
      rw [hchain, if_neg]
      · exact hz
      · rintro rfl
        cases hp.symm.trans hz

/-! ### A job entered -/

/-- A session holds at most one job more when one slot alone gains a job of its own. -/
theorem jobsHeld_le_succ {t : State} {l : SessionId} {j : JobId}
    (h : ∀ (k : JobId) (y : Job), k ≠ j → (t.jobs[k]).job = some y → y.session = some l →
      ∃ z, (s.jobs[k]).job = some z ∧ z.session = some l) : t.jobsHeld l ≤ s.jobsHeld l + 1 := by
  have hnodup : ((List.finRange 16).filter (t.jobFits fun _ x => decide (x.session = some l))).Nodup :=
    (List.nodup_finRange 16).filter _
  have hsub : (List.finRange 16).filter (t.jobFits fun _ x => decide (x.session = some l)) ⊆
      j :: (List.finRange 16).filter (s.jobFits fun _ x => decide (x.session = some l)) := fun k hk => by
    by_cases hkj : k = j
    · exact hkj ▸ List.mem_cons_self
    · refine List.mem_cons_of_mem _ (List.mem_filter.mpr ⟨List.mem_finRange k, ?_⟩)
      have hfit := (List.mem_filter.mp hk).2
      unfold State.jobFits at hfit ⊢
      cases hy : (t.jobs[k]).job with
      | none => rw [hy] at hfit; cases hfit
      | some y =>
        rw [hy] at hfit
        obtain ⟨z, hz, hsz⟩ := h k y hkj hy (of_decide_eq_true hfit)
        rw [hz]
        exact decide_eq_true hsz
  exact (List.subperm_of_subset hnodup hsub).length_le

/-- The job an accepted scan request enters (R79). -/
def enteredJob (l : SessionId) (c : ChainId) (kind : JobKind) (idle wait : Nat) : Job :=
  { session := some l, kind := kind, chain := c, idle := idle, waitLimit := wait,
    status := .queued (if wait = 0 then none else some 0) }

theorem State.Tables.enterJob (hs : s.Tables) {j : JobId} {l : SessionId} {c : ChainId} {kind : JobKind} {idle wait : Nat}
    (ho : s.isOpen l) (hj : s.freeJobSlot = some j) (hheld : s.jobsHeld l < Config.jobLimit)
    (hp : (s.chains[c]).phase.working)
    (htarget : ∀ h, kind.target = some h → ∃ i r, s.named h = some (i, r) ∧ r.chain = c ∧ r.state = .claimed l) :
    (s.enterJob j l c kind idle wait).Tables := by
  have hfree : (s.jobs[j]).job = none := by
    have hnone := List.find?_some hj
    exact Option.isNone_iff_eq_none.mp hnone
  have hback : ∀ {k : JobId} {x : Job}, ((s.enterJob j l c kind idle wait).jobs[k]).job = some x →
      (k = j ∧ x = enteredJob l c kind idle wait) ∨ (s.jobs[k]).job = some x := fun {k x} hx => by
    rw [Fin.getElem_fin, State.enterJob_getElem] at hx
    split at hx
    · next hk => exact .inl ⟨hk, (Option.some.inj hx).symm⟩
    · exact .inr hx
  have hnew : ((s.enterJob j l c kind idle wait).jobs[j]).job = some (enteredJob l c kind idle wait) := by
    rw [Fin.getElem_fin, State.enterJob_getElem, if_pos rfl]
    rfl
  have hkept : ∀ {k : JobId} {x : Job}, (s.jobs[k]).job = some x →
      ((s.enterJob j l c kind idle wait).jobs[k]).job = some x := fun {k x} hx => by
    rw [Fin.getElem_fin, State.enterJob_getElem, if_neg]
    · exact hx
    · rintro rfl
      cases hfree.symm.trans hx
  have hchain : ∀ d : ChainId, (s.enterJob j l c kind idle wait).chains[d] =
      if d = c then { s.chains[c] with queue := (s.chains[c]).queue ++ [j] } else s.chains[d] := fun d =>
    State.enterJob_chain _ j l c d kind idle wait
  have hphase : ∀ d : ChainId, ((s.enterJob j l c kind idle wait).chains[d]).phase = (s.chains[d]).phase := fun d => by
    rw [hchain]
    split
    · next hd => rw [hd]
    · rfl
  have hparks : ∀ d : ChainId, ((s.enterJob j l c kind idle wait).chains[d]).parks = (s.chains[d]).parks := fun d => by
    rw [hchain]
    split
    · next hd => rw [hd]
    · rfl
  have hslots : (s.enterJob j l c kind idle wait).slots = s.slots := by simp
  have hparkable : ∀ (d : ChainId) (h : Handle), s.parkable d h → (s.enterJob j l c kind idle wait).parkable d h := by
    rintro d h ⟨⟨i, r, hn, hc, hstate, hclass⟩, hwaits⟩
    refine ⟨⟨i, r, by rw [State.named_congr hslots]; exact hn, hc, hstate, hclass⟩, ?_⟩
    rintro ⟨k, x, hx, hdone, hk⟩
    obtain ⟨-, rfl⟩ | hx' := hback hx
    · obtain ⟨i', r', hn', -, hclaimed⟩ := htarget h hk
      cases hn.symm.trans hn'
      cases hstate.symm.trans hclaimed
    · exact hwaits ⟨k, x, hx', hdone, hk⟩
  refine ⟨⟨fun i => ?_, fun k => ?_⟩, ?_, ?_, ⟨?_, fun k x m hx hm => ?_⟩, fun m => ?_, fun d => ?_,
    ⟨fun d k => ?_, fun d hd => ?_⟩, ⟨fun d x k hx hk => ?_, fun k x hx hr => ?_⟩, ⟨fun k x hx hq => ?_,
      fun k x h hx hdone hk => ?_⟩, fun d => ?_, ?_, ?_⟩
  · rw [hslots]
    exact hs.generations.1 i
  · rw [Fin.getElem_fin, State.enterJob_getElem]
    split
    · exact hs.generations.2 j
    · exact hs.generations.2 k
  · have hg := hs.suspect
    simp only [State.suspectLaw, hslots, hphase] at hg ⊢
    exact hg
  · have hg := hs.places
    simp only [State.placesDistinct, State.samePlace, hslots] at hg ⊢
    exact hg
  · rw [hslots, State.enterJob_sessions]
    exact hs.owners.1
  · rw [State.enterJob_sessions]
    obtain ⟨-, rfl⟩ | hx' := hback hx
    · cases hm
      exact ho
    · exact hs.owners.2 k x m hx' hm
  · by_cases hm : m = l
    · subst hm
      refine (jobsHeld_le_succ (j := j) fun k x hk hx hl => ⟨x, ?_, hl⟩).trans hheld
      exact (hback hx).resolve_left fun h => hk h.1
    · refine (jobsHeld_le fun k x hx hl => ⟨x, (hback hx).resolve_left ?_, hl⟩).trans (hs.limited m)
      rintro ⟨-, rfl⟩
      exact hm (Option.some.inj hl).symm
  · rw [hphase]
    exact hs.sized d
  · have hmem : k ∈ ((s.enterJob j l c kind idle wait).chains[d]).queue ↔
        k ∈ (s.chains[d]).queue ∨ (k = j ∧ d = c) := by
      rw [hchain]
      by_cases hd : d = c
      · subst hd
        simp only [if_true, List.mem_append, List.mem_singleton, and_true]
      · simp only [hd, if_false, and_false, or_false]
    rw [hmem, hs.queues.1 d k]
    constructor
    · rintro (⟨x, hx, hc, hdone⟩ | ⟨rfl, rfl⟩)
      · exact ⟨x, hkept hx, hc, hdone⟩
      · exact ⟨_, hnew, rfl, rfl⟩
    · rintro ⟨x, hx, hc, hdone⟩
      obtain ⟨hk, rfl⟩ | hx' := hback hx
      · exact .inr ⟨hk, hc.symm⟩
      · exact .inl ⟨x, hx', hc, hdone⟩
  · rw [hphase] at hd
    rw [hchain, if_neg]
    · exact hs.queues.2 d hd
    · rintro rfl
      exact hd hp
  · rw [hphase] at hx
    obtain ⟨hhead, y, hy, hr⟩ := hs.runs.1 d x k hx hk
    refine ⟨?_, y, hkept hy, hr⟩
    rw [hchain]
    split
    · next hd =>
      subst hd
      obtain ⟨rest, hrest⟩ := List.head?_eq_some_iff.mp hhead
      simp only [hrest, List.cons_append, List.head?_cons]
    · exact hhead
  · obtain ⟨-, rfl⟩ | hx' := hback hx
    · cases hr
    · rw [hphase]
      exact hs.runs.2 k x hx' hr
  · obtain ⟨-, rfl⟩ | hx' := hback hx
    · exact Option.some_ne_none l
    · exact hs.targets.1 k x hx' hq
  · rw [State.named_congr hslots]
    obtain ⟨-, rfl⟩ | hx' := hback hx
    · obtain ⟨i, r, hn, hc, hclaimed⟩ := htarget h hk
      exact ⟨i, r, hn, hc, .inl ⟨l, rfl, hclaimed⟩⟩
    · exact hs.targets.2 k x h hx' hdone hk
  · obtain ⟨hnodup, hall, hscan⟩ := hs.parks d
    rw [hparks, hphase]
    refine ⟨hnodup, fun h hh => hparkable d h (hall h hh), fun x h hx hsource => ?_⟩
    obtain ⟨hable, hnot⟩ := hscan x h hx hsource
    exact ⟨hparkable d h hable, hnot⟩
  · have hg := hs.lines
    simp only [State.linesLaw, State.named_congr hslots, State.enterJob_lines] at hg ⊢
    exact hg
  · have hg := hs.tick
    simp only [State.tickLaw, State.live, State.enterJob_power, State.enterJob_resetLow, State.enterJob_tickRunning] at hg ⊢
    exact hg

end

end Sys2Proof.Machine
end

section
/-! PROOFS. What keeps the laws of the tables at the chains and the directory: the phases of empty chains, a park granted, a
chain fault, retirement and allocation; sessions and lines; and the two resets. -/

namespace Sys2Proof.Machine
set_option Elab.async false

section
variable {s : State}

/-! ### Sessions and lines -/

theorem State.Tables.withLines (hs : s.Tables) {v : Vector EventLine 8} (h : ({ s with lines := v } : State).linesLaw) :
    ({ s with lines := v } : State).Tables :=
  ⟨hs.generations, hs.suspect, hs.places, hs.owners, hs.limited, hs.sized, hs.queues, hs.runs, hs.targets, hs.parks, h,
    hs.tick⟩

/-- A session that owns no record and holds no job may end. -/
theorem State.Tables.closeSession (hs : s.Tables) {l : SessionId}
    (hr : ∀ (i : SlotId) (r : TargetRecord), (s.slots[i]).record = some r → r.state.owner ≠ some l)
    (hj : ∀ (j : JobId) (x : Job), (s.jobs[j]).job = some x → x.session ≠ some l) : (s.setSession l none).Tables := by
  refine ⟨hs.generations, hs.suspect, hs.places, ⟨fun i r m hi ho => ?_, fun j x m hx hm => ?_⟩, hs.limited, hs.sized,
    hs.queues, hs.runs, hs.targets, hs.parks, hs.lines, hs.tick⟩
  · rw [Fin.getElem_fin, State.setSession_getElem, if_neg]
    · exact hs.owners.1 i r m hi ho
    · rintro rfl
      exact hr i r hi ho
  · rw [Fin.getElem_fin, State.setSession_getElem, if_neg]
    · exact hs.owners.2 j x m hx hm
    · rintro rfl
      exact hj j x hx hm

/-! ### Chains without records -/

/-- A chain without work and parks may take any phase without a scan in progress that suits its records. -/
theorem State.Tables.withPhase (hs : s.Tables) {v : Vector Chain 4} {c : ChainId}
    (hother : ∀ d : ChainId, d ≠ c → v[d] = s.chains[d])
    (hqueue : (s.chains[c]).queue = [] ∧ (v[c]).queue = []) (hparks : (v[c]).parks = [])
    (hscan : (∀ x, (s.chains[c]).phase ≠ .scanning x) ∧ ∀ x, (v[c]).phase ≠ .scanning x)
    (hrecords : ∀ (i : SlotId) (r : TargetRecord), (s.slots[i]).record = some r → r.chain = c →
      (v[c]).phase.mayHaveRecords ∧ (r.state.isSuspect ↔ (v[c]).phase.isFault) ∧
        ((v[c]).phase = .resetting .returning → r.state.owner = none))
    (hsized : (v[c]).phase.targetsLimited) : ({ s with chains := v } : State).Tables := by
  refine ⟨hs.generations, fun i r hr => ?_, hs.places, hs.owners, hs.limited, fun d => ?_,
    ⟨fun d j => ?_, fun d hd => ?_⟩, ⟨fun d x j hx hj => ?_, fun j y hy hr => ?_⟩, hs.targets, fun d => ?_, hs.lines,
    hs.tick⟩
  · change (v[r.chain]).phase.mayHaveRecords ∧ (_ ↔ (v[r.chain]).phase.isFault) ∧ _ ∧ ((v[r.chain]).phase = _ → _)
    by_cases hc : r.chain = c
    · obtain ⟨hmay, hsuspect, hreturning⟩ := hrecords i r hr hc
      subst hc
      exact ⟨hmay, hsuspect, (hs.suspect i r hr).2.2.1, hreturning⟩
    · rw [hother _ hc]
      exact hs.suspect i r hr
  · change (v[d]).phase.targetsLimited
    by_cases hd : d = c
    · subst hd; exact hsized
    · rw [hother d hd]; exact hs.sized d
  · change j ∈ (v[d]).queue ↔ _
    by_cases hd : d = c
    · subst hd
      rw [← hs.queues.1 d j, hqueue.1, hqueue.2]
    · rw [hother d hd]
      exact hs.queues.1 d j
  · change (v[d]).queue = [] ∧ (v[d]).parks = []
    by_cases hd' : d = c
    · subst hd'; exact ⟨hqueue.2, hparks⟩
    · change ¬ (v[d]).phase.working at hd
      rw [hother d hd'] at hd ⊢
      exact hs.queues.2 d hd
  · change (v[d]).phase = _ at hx
    change (v[d]).queue.head? = _ ∧ _
    by_cases hd : d = c
    · subst hd; exact absurd hx (hscan.2 x)
    · rw [hother d hd] at hx ⊢
      exact hs.runs.1 d x j hx hj
  · obtain ⟨x, hx, hj⟩ := hs.runs.2 j y hy hr
    refine ⟨x, ?_, hj⟩
    change (v[y.chain]).phase = _
    rw [hother]
    · exact hx
    · rintro rfl
      exact hscan.1 x hx
  · change (v[d]).parks.Nodup ∧ (∀ h ∈ (v[d]).parks, _) ∧ ∀ x h, (v[d]).phase = _ → _ → _ ∧ h ∉ (v[d]).parks
    by_cases hd : d = c
    · subst hd
      rw [hparks]
      exact ⟨List.nodup_nil, fun h hh => absurd hh List.not_mem_nil, fun x h hx => absurd hx (hscan.2 x)⟩
    · rw [hother d hd]
      exact hs.parks d

/-! ### A park granted -/

/-- The oldest park leaves its READY chain's list and is in progress (R63). -/
theorem State.Tables.grantPark (hs : s.Tables) {c : ChainId} {h : Handle} {rest : List Handle}
    (hp : (s.chains[c]).phase = .ready) (hparks : (s.chains[c]).parks = h :: rest) : (s.grantPark c h rest).Tables := by
  have hchain : ∀ d : ChainId, (s.grantPark c h rest).chains[d] =
      if d = c then Chain.beginOp { s.chains[c] with phase := .scanning (s.parkScan c h), parks := rest }
      else s.chains[d] := fun d => by
    rw [Fin.getElem_fin, State.grantPark, State.updChain_getElem]
    rfl
  obtain ⟨hnodup, hall, _⟩ := hs.parks c
  rw [hparks] at hnodup hall
  obtain ⟨hnot, hrest⟩ := List.nodup_cons.mp hnodup
  refine ⟨hs.generations, fun i r hr => ?_, hs.places, hs.owners, hs.limited, fun d => ?_,
    ⟨fun d j => ?_, fun d hd => ?_⟩, ⟨fun d x j hx hj => ?_, fun j y hy hr => ?_⟩, hs.targets, fun d => ?_, hs.lines,
    hs.tick⟩
  · obtain ⟨hmay, hsuspect, hunknown, hreturning⟩ := hs.suspect i r hr
    rw [hchain]
    split
    · next hc =>
      subst hc
      rw [hp] at hsuspect
      exact ⟨trivial, hsuspect, hunknown, nofun⟩
    · exact ⟨hmay, hsuspect, hunknown, hreturning⟩
  · rw [hchain]
    split
    · exact trivial
    · exact hs.sized d
  · rw [hchain]
    split
    · next hd => subst hd; exact hs.queues.1 d j
    · exact hs.queues.1 d j
  · rw [hchain] at hd ⊢
    split at hd
    · exact absurd (.inr ⟨_, rfl⟩) hd
    · next hne =>
      rw [if_neg hne]
      exact hs.queues.2 d hd
  · rw [hchain] at hx ⊢
    split at hx
    · cases hx
      cases hj
    · next hne =>
      rw [if_neg hne]
      exact hs.runs.1 d x j hx hj
  · obtain ⟨x, hx, hj⟩ := hs.runs.2 j y hy hr
    refine ⟨x, ?_, hj⟩
    rw [hchain, if_neg]
    · exact hx
    · rintro rfl
      cases hp.symm.trans hx
  · rw [hchain]
    split
    · next hd =>
      subst hd
      refine ⟨hrest, fun k hk => hall k (List.mem_cons_of_mem _ hk), fun x k hx hk => ?_⟩
      cases hx
      cases hk
      exact ⟨hall h List.mem_cons_self, hnot⟩
    · exact hs.parks d

/-! ### A chain fault -/

/-- A record of a chain in FAULT (R19). -/
def TargetRecord.suspected (c : ChainId) (r : TargetRecord) : TargetRecord :=
  if r.chain = c then { r with state := .suspect r.state.owner, resident := .unknown } else r

theorem TargetRecord.suspected_place (c : ChainId) (r : TargetRecord) :
    (r.suspected c).chain = r.chain ∧ (r.suspected c).position = r.position ∧
      (r.suspected c).state.owner = r.state.owner := by
  unfold TargetRecord.suspected
  split <;> exact ⟨rfl, rfl, rfl⟩

/-- A READY chain without work and parks enters FAULT, its records SUSPECT with resident UNKNOWN (R19, R117). -/
theorem State.Tables.withFault (hs : s.Tables) {w : Vector RecordSlot 32} {v : Vector Chain 4} {c : ChainId}
    {x : Chain} (hslot : ∀ i : SlotId, w[i] = { s.slots[i] with record := (s.slots[i]).record.map (·.suspected c) })
    (hchain : ∀ d : ChainId, v[d] = if d = c then x else s.chains[d])
    (hphase : x.phase.isFault) (hqueue : (s.chains[c]).queue = [] ∧ x.queue = []) (hparks : x.parks = []) :
    ({ s with slots := w, chains := v } : State).Tables := by
  have hwait : ∀ {j : JobId} {y : Job}, (s.jobs[j]).job = some y → y.isDone = false → y.chain ≠ c := fun {j y} hy hd => by
    rintro rfl
    have hmem := (hs.queues.1 _ j).mpr ⟨y, hy, rfl, hd⟩
    rw [hqueue.1] at hmem
    cases hmem
  have hnamed : ∀ {h : Handle} {i : SlotId} {r : TargetRecord}, s.named h = some (i, r) →
      ({ s with slots := w, chains := v } : State).named h = some (i, r.suspected c) := fun {h i r} hn =>
    (named_rewritten hslot).mpr ⟨r, hn, rfl⟩
  have hkept : ∀ {r : TargetRecord}, r.chain ≠ c → r.suspected c = r := fun hc => if_neg hc
  have hrecord : ∀ {i : SlotId} {q : TargetRecord}, (w[i]).record = some q →
      ∃ r, (s.slots[i]).record = some r ∧ q = r.suspected c := fun {i q} hq => by
    rw [hslot, Option.map_eq_some_iff] at hq
    obtain ⟨r, hr, rfl⟩ := hq
    exact ⟨r, hr, rfl⟩
  have hfault : x.phase.mayHaveRecords ∧ x.phase ≠ .resetting .returning ∧ x.phase.targetsLimited ∧
      ∀ z, x.phase ≠ .scanning z := by
    cases hx : x.phase <;> rw [hx] at hphase <;> first | exact hphase.elim | exact ⟨trivial, nofun, trivial, nofun⟩
  have hparkable : ∀ (d : ChainId) (h : Handle), d ≠ c → s.parkable d h →
      ({ s with slots := w, chains := v } : State).parkable d h := by
    rintro d h hd ⟨⟨i, r, hn, hc, hstate, hclass⟩, hwaits⟩
    exact ⟨⟨i, r, hkept (hc ▸ hd) ▸ hnamed hn, hc, hstate, hclass⟩, hwaits⟩
  refine ⟨⟨fun i => ?_, hs.generations.2⟩, fun i q hq => ?_, State.placesDistinct_iff.mpr fun i j q q' hq hq' hc hpos => ?_,
    ⟨fun i q l hq ho => ?_, hs.owners.2⟩, hs.limited, fun d => ?_, ⟨fun d j => ?_, fun d hd => ?_⟩,
    ⟨fun d z j hz hj => ?_, fun j y hy hr => ?_⟩, ⟨hs.targets.1, fun j y h hy hd hk => ?_⟩, fun d => ?_,
    ⟨fun e h he => ?_, hs.lines.2⟩, hs.tick⟩
  · change 1 ≤ (w[i]).generation ∧ (w[i]).generation ≤ _
    rw [hslot]
    exact hs.generations.1 i
  · obtain ⟨r, hr, rfl⟩ := hrecord hq
    have hv : v[(r.suspected c).chain] = if r.chain = c then x else s.chains[r.chain] := by
      simp only [hchain, (r.suspected_place c).1]
    change (v[(r.suspected c).chain]).phase.mayHaveRecords ∧ (_ ↔ (v[(r.suspected c).chain]).phase.isFault) ∧ _ ∧
      ((v[(r.suspected c).chain]).phase = _ → _)
    rw [hv]
    by_cases hc : r.chain = c
    · rw [if_pos hc, TargetRecord.suspected, if_pos hc]
      exact ⟨hfault.1, iff_of_true trivial hphase, iff_of_true rfl trivial, fun h => absurd h hfault.2.1⟩
    · rw [if_neg hc, hkept hc]
      exact hs.suspect i r hr
  · obtain ⟨r, hr, rfl⟩ := hrecord hq
    obtain ⟨r', hr', rfl⟩ := hrecord hq'
    rw [(r.suspected_place c).1, (r'.suspected_place c).1] at hc
    rw [(r.suspected_place c).2.1, (r'.suspected_place c).2.1] at hpos
    exact State.placesDistinct_iff.mp hs.places i j r r' hr hr' hc hpos
  · obtain ⟨r, hr, rfl⟩ := hrecord hq
    exact hs.owners.1 i r l hr ((r.suspected_place c).2.2.symm.trans ho)
  · change (v[d]).phase.targetsLimited
    rw [hchain]
    split
    · exact hfault.2.2.1
    · exact hs.sized d
  · change j ∈ (v[d]).queue ↔ _
    rw [hchain]
    split
    · next hd =>
      subst hd
      rw [hqueue.2, ← hqueue.1]
      exact hs.queues.1 d j
    · exact hs.queues.1 d j
  · change ¬ (v[d]).phase.working at hd
    change (v[d]).queue = [] ∧ (v[d]).parks = []
    rw [hchain] at hd ⊢
    split at hd
    · next hc => rw [if_pos hc]; exact ⟨hqueue.2, hparks⟩
    · next hc => rw [if_neg hc]; exact hs.queues.2 d hd
  · change (v[d]).phase = _ at hz
    change (v[d]).queue.head? = _ ∧ _
    rw [hchain] at hz ⊢
    split at hz
    · exact absurd hz (hfault.2.2.2 z)
    · next hc => rw [if_neg hc]; exact hs.runs.1 d z j hz hj
  · change ∃ z, (v[y.chain]).phase = _ ∧ _
    rw [hchain, if_neg (hwait hy (Job.not_done_of_running hr))]
    exact hs.runs.2 j y hy hr
  · obtain ⟨i, r, hn, hc, hstate⟩ := hs.targets.2 j y h hy hd hk
    exact ⟨i, r, hkept (hc.symm ▸ hwait hy hd) ▸ hnamed hn, hc, hstate⟩
  · change (v[d]).parks.Nodup ∧ (∀ h ∈ (v[d]).parks, _) ∧ ∀ z h, (v[d]).phase = _ → _ → _ ∧ h ∉ (v[d]).parks
    rw [hchain]
    by_cases hd : d = c
    · rw [if_pos hd, hparks]
      exact ⟨List.nodup_nil, fun h hh => absurd hh List.not_mem_nil, fun z h hz => absurd hz (hfault.2.2.2 z)⟩
    · rw [if_neg hd]
      obtain ⟨hnodup, hall, hscan⟩ := hs.parks d
      exact ⟨hnodup, fun h hh => hparkable d h hd (hall h hh),
        fun z h hz hsource => ⟨hparkable d h hd (hscan z h hz hsource).1, (hscan z h hz hsource).2⟩⟩
  · obtain ⟨i, r, hn⟩ := hs.lines.1 e h he
    exact ⟨i, _, hnamed hn⟩

/-! ### Retirement -/

theorem nextSlotGeneration_range {g : Nat} (h : 1 ≤ g ∧ g ≤ Config.maxSlotGeneration) :
    1 ≤ nextSlotGeneration g ∧ nextSlotGeneration g ≤ Config.maxSlotGeneration := by
  simp only [nextSlotGeneration]
  split <;> simp only [Config.maxSlotGeneration] at * <;> omega

theorem retire_record {c : ChainId} {i : SlotId} {r : TargetRecord} :
    ((s.retire c).slots[i]).record = some r ↔ (s.slots[i]).record = some r ∧ r.chain ≠ c := by
  rw [Fin.getElem_fin, State.retire_getElem]
  cases hq : (s.slots[i.val]).record with
  | none => simp [hq]
  | some q =>
    by_cases hc : q.chain = c
    · simp only [hc, if_true, Option.some.injEq, reduceCtorEq, false_iff, not_and, not_not]
      rintro rfl
      exact hc
    · simp only [hc, if_false, hq, Option.some.injEq, iff_self_and]
      rintro rfl
      exact hc

theorem retire_generation {c : ChainId} {i : SlotId} {r : TargetRecord} (hr : (s.slots[i]).record = some r)
    (hc : r.chain ≠ c) : ((s.retire c).slots[i]).generation = (s.slots[i]).generation := by
  rw [Fin.getElem_fin] at hr
  rw [Fin.getElem_fin, State.retire_getElem, hr]
  simp only [hc, if_false, Fin.getElem_fin]

theorem named_retire {c : ChainId} {h : Handle} {i : SlotId} {r : TargetRecord} :
    (s.retire c).named h = some (i, r) ↔ s.named h = some (i, r) ∧ r.chain ≠ c := by
  rw [State.named_eq_some, State.named_eq_some, retire_record]
  constructor
  · rintro ⟨⟨hr, hc⟩, hh⟩
    rw [State.handleOf, retire_generation hr hc] at hh
    exact ⟨⟨hr, hh⟩, hc⟩
  · rintro ⟨⟨hr, hh⟩, hc⟩
    refine ⟨⟨hr, hc⟩, ?_⟩
    rw [State.handleOf, retire_generation hr hc]
    exact hh

/-- The records of a chain without work and parks are retired (R18). -/
theorem State.Tables.retire (hs : s.Tables) {c : ChainId} (hqueue : (s.chains[c]).queue = [])
    (hparks : (s.chains[c]).parks = []) (hscan : ∀ x, (s.chains[c]).phase ≠ .scanning x) : (s.retire c).Tables := by
  have hpark : ∀ (d : ChainId) (h : Handle), s.parkPending d h → (s.retire c).parkable d h := fun d h hp => by
    obtain ⟨⟨i, r, hn, hc, hstate, hclass⟩, hwaits⟩ := hs.parkable_of_pending hp
    refine ⟨⟨i, r, named_retire.mpr ⟨hn, ?_⟩, hc, hstate, hclass⟩,
      by rwa [State.jobWaits_congr (State.retire_jobs s c)]⟩
    rintro rfl
    subst hc
    obtain hmem | ⟨x, hx, _⟩ := hp
    · rw [hparks] at hmem
      cases hmem
    · exact hscan x hx
  have hline : ∀ (e : LineId) (h : Handle), ((s.retire c).lines[e]).binding = some h →
      (s.retire c).lines[e] = s.lines[e] ∧ ∃ i r, (s.retire c).named h = some (i, r) := fun e h he => by
    rw [Fin.getElem_fin, State.retire_line] at he
    rw [Fin.getElem_fin, State.retire_line]
    cases hb : s.boundRecord e with
    | none =>
      rw [hb] at he
      obtain ⟨i, r, hn⟩ := hs.lines.1 e h he
      rw [State.boundRecord_eq_some.mpr ⟨h, i, he, hn⟩] at hb
      cases hb
    | some q =>
      rw [hb] at he
      dsimp only at he ⊢
      split at he
      · cases he
      · next hc =>
        rw [if_neg hc]
        obtain ⟨i, r, hn⟩ := hs.lines.1 e h he
        cases (State.boundRecord_eq_some.mpr ⟨h, i, he, hn⟩).symm.trans hb
        exact ⟨rfl, i, q, named_retire.mpr ⟨hn, hc⟩⟩
  refine ⟨⟨fun i => ?_, fun j => ?_⟩, fun i r hr => ?_, State.placesDistinct_iff.mpr fun i j r q hr hq hc hp => ?_,
    ⟨fun i r l hr ho => ?_, ?_⟩, fun l => ?_, ?_, ?_, ?_, ⟨?_, fun j x h hx hdone hk => ?_⟩, fun d => ?_,
    ⟨fun e h he => (hline e h he).2, fun e k h he hk => ?_, fun e he => ?_⟩, ?_⟩
  · rw [Fin.getElem_fin, State.retire_getElem]
    have hgen := hs.generations.1 i
    split
    · split
      · exact nextSlotGeneration_range hgen
      · exact hgen
    · exact hgen
  · rw [State.retire_jobs]
    exact hs.generations.2 j
  · rw [State.retire_chains]
    exact hs.suspect i r (retire_record.mp hr).1
  · exact State.placesDistinct_iff.mp hs.places i j r q (retire_record.mp hr).1 (retire_record.mp hq).1 hc hp
  · rw [State.retire_sessions]
    exact hs.owners.1 i r l (retire_record.mp hr).1 ho
  · rw [State.retire_jobs, State.retire_sessions]
    exact hs.owners.2
  · exact (jobsHeld_le fun j y hy hl => ⟨y, State.retire_jobs s c ▸ hy, hl⟩).trans (hs.limited l)
  · rw [State.retire_chains]
    exact hs.sized
  · rw [State.queuesLaw, State.retire_chains, State.retire_jobs]
    exact hs.queues
  · rw [State.runsLaw, State.retire_chains, State.retire_jobs]
    exact hs.runs
  · rw [State.retire_jobs]
    exact hs.targets.1
  · rw [State.retire_jobs] at hx
    obtain ⟨i, r, hn, hc, hstate⟩ := hs.targets.2 j x h hx hdone hk
    refine ⟨i, r, named_retire.mpr ⟨hn, ?_⟩, hc, hstate⟩
    rintro rfl
    have hmem := (hs.queues.1 _ j).mpr ⟨x, hx, hc.symm, hdone⟩
    rw [hqueue] at hmem
    cases hmem
  · rw [State.retire_chains]
    obtain ⟨hnodup, hall, hscans⟩ := hs.parks d
    exact ⟨hnodup, fun h hh => hpark d h (.inl hh),
      fun x h hx hsource => ⟨hpark d h (.inr ⟨x, hx, hsource⟩), (hscans x h hx hsource).2⟩⟩
  · rw [(hline e h he).1] at he
    rw [(hline k h hk).1] at hk
    exact hs.lines.2.1 e k h he hk
  · rw [Fin.getElem_fin, State.retire_line] at he ⊢
    cases hb : s.boundRecord e with
    | none =>
      rw [hb] at he
      exact hs.lines.2.2 e he
    | some q =>
      rw [hb] at he
      dsimp only at he ⊢
      split
      · exact ⟨rfl, rfl, rfl⟩
      · next hc =>
        rw [if_neg hc] at he
        exact hs.lines.2.2 e he
  · have hg := hs.tick
    simp only [State.tickLaw, State.live, State.retire_power, State.retire_resetLow, State.retire_tickRunning] at hg ⊢
    exact hg

/-! ### Allocation -/

theorem allocate_record {c : ChainId} {ids : List (Option Word32)} {ds : List Description} {i : SlotId} {r : TargetRecord}
    (h : ((s.allocate c ids ds).slots[i]).record = some r) :
    (s.slots[i]).record = some r ∨ (i ∈ s.freeSlots ∧ s.freeSlots.idxOf i < ids.length ∧
      ∃ code d, r = newRecord c (Fin.ofNat 16 (s.freeSlots.idxOf i)) code d) := by
  rw [Fin.getElem_fin, State.allocate, State.mapSlots_getElem] at h
  split at h
  · exact .inl h
  · next hnone =>
    dsimp only at h
    split at h
    · next code d hcode hd =>
      cases h
      refine .inr ⟨List.mem_filter.mpr ⟨List.mem_finRange i, Option.isNone_iff_eq_none.mpr hnone⟩, ?_, code, d, rfl⟩
      exact (List.getElem?_eq_some_iff.mp hcode).1
    · rw [hnone] at h
      cases h

theorem allocate_generation {c : ChainId} {ids : List (Option Word32)} {ds : List Description} (i : SlotId) :
    ((s.allocate c ids ds).slots[i]).generation = (s.slots[i]).generation := by
  rw [Fin.getElem_fin, State.allocate, State.mapSlots_getElem]
  split
  · rfl
  · dsimp only
    split <;> rfl

/-- A READY chain without records gets AVAILABLE records in free slots, at distinct positions. -/
theorem State.Tables.withNewRecords (hs : s.Tables) {w : Vector RecordSlot 32} {c : ChainId}
    (hgen : ∀ i : SlotId, (w[i]).generation = (s.slots[i]).generation)
    (hkept : ∀ (i : SlotId) (r : TargetRecord), (s.slots[i]).record = some r → (w[i]).record = some r)
    (hnew : ∀ (i : SlotId) (r : TargetRecord), (w[i]).record = some r →
      (s.slots[i]).record = some r ∨ (r.chain = c ∧ r.state = .available ∧ r.resident ≠ .unknown))
    (hplaces : ∀ (i j : SlotId) (r q : TargetRecord), (w[i]).record = some r → (w[j]).record = some q → r.chain = c →
      q.chain = c → r.position = q.position → i = j)
    (hp : (s.chains[c]).phase = .ready)
    (hrecords : ∀ (i : SlotId) (r : TargetRecord), (s.slots[i]).record = some r → r.chain ≠ c) :
    ({ s with slots := w } : State).Tables := by
  have hnamed : ∀ {h : Handle} {i : SlotId} {r : TargetRecord}, s.named h = some (i, r) →
      ({ s with slots := w } : State).named h = some (i, r) := fun {h i r} hn => by
    obtain ⟨hr, hh⟩ := State.named_eq_some.mp hn
    refine State.named_eq_some.mpr ⟨hkept i r hr, ?_⟩
    simp only [State.handleOf, hgen]
    exact hh
  have hparkable : ∀ (d : ChainId) (h : Handle), s.parkable d h → ({ s with slots := w } : State).parkable d h := by
    rintro d h ⟨⟨i, r, hn, hrest⟩, hwaits⟩
    exact ⟨⟨i, r, hnamed hn, hrest⟩, hwaits⟩
  refine ⟨⟨fun i => ?_, hs.generations.2⟩, fun i r hr => ?_, State.placesDistinct_iff.mpr fun i j r q hr hq hc hpos => ?_,
    ⟨fun i r l hr ho => ?_, hs.owners.2⟩, hs.limited, hs.sized, hs.queues, hs.runs,
    ⟨hs.targets.1, fun j x h hx hdone hk => ?_⟩, fun d => ?_, ⟨fun e h he => ?_, hs.lines.2⟩, hs.tick⟩
  · simp only [hgen]
    exact hs.generations.1 i
  · obtain hr' | ⟨rfl, hstate, hresident⟩ := hnew i r hr
    · exact hs.suspect i r hr'
    · change (s.chains[r.chain]).phase.mayHaveRecords ∧ (_ ↔ (s.chains[r.chain]).phase.isFault) ∧ _ ∧
        ((s.chains[r.chain]).phase = _ → _)
      rw [hp, hstate]
      exact ⟨trivial, Iff.rfl, iff_of_false hresident id, fun _ => rfl⟩
  · obtain hr' | ⟨hrc, -, -⟩ := hnew i r hr
    · obtain hq' | ⟨hqc, -, -⟩ := hnew j q hq
      · exact State.placesDistinct_iff.mp hs.places i j r q hr' hq' hc hpos
      · exact absurd (hc.trans hqc) (hrecords i r hr')
    · exact hplaces i j r q hr hq hrc (hc.symm.trans hrc) hpos
  · obtain hr' | ⟨-, hstate, -⟩ := hnew i r hr
    · exact hs.owners.1 i r l hr' ho
    · rw [hstate] at ho
      cases ho
  · obtain ⟨i, r, hn, hrest⟩ := hs.targets.2 j x h hx hdone hk
    exact ⟨i, r, hnamed hn, hrest⟩
  · obtain ⟨hnodup, hall, hscans⟩ := hs.parks d
    exact ⟨hnodup, fun h hh => hparkable d h (hall h hh),
      fun x h hx hsource => ⟨hparkable d h (hscans x h hx hsource).1, (hscans x h hx hsource).2⟩⟩
  · obtain ⟨i, r, hn⟩ := hs.lines.1 e h he
    exact ⟨i, r, hnamed hn⟩

/-- The closing action's allocation puts at most 16 targets at their positions (R7, R43). -/
theorem State.Tables.allocate (hs : s.Tables) {c : ChainId} {ids : List (Option Word32)} (ds : List Description)
    (hp : (s.chains[c]).phase = .ready) (hlen : ids.length ≤ 16)
    (hrecords : ∀ (i : SlotId) (r : TargetRecord), (s.slots[i]).record = some r → r.chain ≠ c) :
    (s.allocate c ids ds).Tables := by
  refine (hs.withNewRecords (w := (s.allocate c ids ds).slots) allocate_generation (fun i r hr => ?_) (fun i r hr => ?_)
    (fun i j r q hr hq hrc hqc hpos => ?_) hp hrecords).congr
    ⟨by simp, by simp, by simp, rfl, by simp, by simp, by simp, by simp⟩
  · rw [Fin.getElem_fin, allocate_of_live (by rw [hr]; rfl)]
    exact hr
  · obtain hr' | ⟨-, -, code, d, rfl⟩ := allocate_record hr
    · exact .inl hr'
    · exact .inr ⟨rfl, rfl, nofun⟩
  · obtain ⟨hi, hilen, code, d, rfl⟩ := (allocate_record hr).resolve_left fun h => hrecords i r h hrc
    obtain ⟨hj, hjlen, code', d', rfl⟩ := (allocate_record hq).resolve_left fun h => hrecords j q h hqc
    refine (List.idxOf_inj hi).mp ?_
    have hval := congrArg Fin.val hpos
    simp only [newRecord, Fin.val_ofNat] at hval
    omega

end

/-! ### The resets -/

theorem State.Cleared.tables {t : State} (h : t.Cleared) : t.Tables := by
  have hrecord : ∀ {i : SlotId} {r : TargetRecord}, (t.slots[i]).record ≠ some r := fun {i r} hr => by
    rw [Fin.getElem_fin, h.slots] at hr
    cases hr
  have hjob : ∀ {j : JobId} {x : Job}, (t.jobs[j]).job ≠ some x := fun {j x} hx => by
    rw [Fin.getElem_fin, h.jobs] at hx
    cases hx
  have hbinding : ∀ e : LineId, (t.lines[e]).binding = none := fun e => by
    rw [Fin.getElem_fin, h.lines]
    rfl
  have hempty : ∀ c : ChainId, (t.chains[c]).queue = [] ∧ (t.chains[c]).parks = [] := fun c => (h.chains c).2
  have hphase : ∀ c : ChainId, (t.chains[c]).phase.targetsLimited ∧ ∀ x, (t.chains[c]).phase ≠ .scanning x := fun c => by
    obtain ⟨hp | hp, _⟩ := h.chains c
    · rw [Fin.getElem_fin, hp]
      exact ⟨trivial, nofun⟩
    · rw [Fin.getElem_fin, hp]
      exact ⟨trivial, nofun⟩
  refine ⟨⟨fun i => ?_, fun j => ?_⟩, fun _ _ hr => absurd hr hrecord, State.placesDistinct_iff.mpr fun _ _ _ _ hr => absurd hr hrecord,
    ⟨fun _ _ _ hr => absurd hr hrecord, fun _ _ _ hx => absurd hx hjob⟩, fun l => ?_, fun c => (hphase c).1,
    ⟨fun c j => ?_, fun c _ => hempty c⟩, ⟨fun c x _ hx => absurd hx ((hphase c).2 x), fun _ _ hx => absurd hx hjob⟩,
    ⟨fun _ _ hx => absurd hx hjob, fun _ _ _ hx => absurd hx hjob⟩, fun c => ?_,
    ⟨fun e k he => ?_, fun e k m he => ?_, fun e _ => ?_⟩, h.tick⟩
  · rw [Fin.getElem_fin, h.slots]
    decide
  · rw [Fin.getElem_fin, h.jobs]
    decide
  · have hnone : ∀ j, t.jobFits (fun _ x => decide (x.session = some l)) j = false := fun j => by
      rw [State.jobFits, Fin.getElem_fin, h.jobs]
    rw [State.jobsHeld, List.filter_eq_nil_iff.mpr fun j _ => Bool.eq_false_iff.mp (hnone j)]
    exact Nat.zero_le _
  · rw [(hempty c).1]
    exact iff_of_false List.not_mem_nil fun ⟨x, hx, _⟩ => hjob hx
  · rw [(hempty c).2]
    exact ⟨List.nodup_nil, fun k hk => absurd hk List.not_mem_nil, fun x _ hx => absurd hx ((hphase c).2 x)⟩
  · rw [hbinding] at he
    cases he
  · rw [hbinding] at he
    cases he
  · rw [Fin.getElem_fin, h.lines]
    exact ⟨rfl, rfl, rfl⟩

/-- The handles of some records of a chain, in ascending position, are distinct. -/
theorem chainRecords_handles_nodup (s : State) (c : ChainId) (p : SlotId × TargetRecord → Bool) :
    (((s.chainRecords c).filter p).map fun ir => s.handleOf ir.1).Nodup := by
  rw [List.Nodup, List.pairwise_map]
  refine ((s.chainRecords_pairwise c).filter p).imp_of_mem fun {a b} ha hb hlt heq => ?_
  have hra := (State.chainRecords_sound (List.mem_filter.mp ha).1).1
  have hrb := (State.chainRecords_sound (List.mem_filter.mp hb).1).1
  rw [s.handleOf_injective heq, hrb] at hra
  rw [Option.some.inj hra] at hlt
  exact absurd hlt (lt_irrefl _)

theorem TargetRecord.warmState_owner (p : ChainPhase) (r : TargetRecord) : (r.warmState p).owner = none := by
  unfold TargetRecord.warmState
  split
  · rfl
  · rfl
  · split
    · rfl
    · split <;> rfl
  · split <;> rfl

theorem TargetRecord.warmState_isSuspect (p : ChainPhase) (r : TargetRecord) :
    (r.warmState p).isSuspect ↔ r.state.isSuspect := by
  unfold TargetRecord.warmState
  cases r.state with
  | available => exact Iff.rfl
  | suspect o => exact Iff.rfl
  | releasing => dsimp only; split <;> [exact Iff.rfl; (split <;> exact Iff.rfl)]
  | claimed l => dsimp only; split <;> exact Iff.rfl

/-- On a READY chain a record in RELEASING after the reset has a HELD resident (R67). -/
theorem TargetRecord.held_of_warmState {r : TargetRecord} (h : r.warmState .ready = .releasing) :
    r.residentClass = some .held := by
  unfold TargetRecord.warmState at h
  have hheld : ∀ {x : RecordState}, (if r.held then .releasing else .available) = x → x = .releasing → r.held = true :=
    fun {x} hx hrel => by
      by_contra hn
      rw [if_neg hn] at hx
      cases hx.trans hrel
  refine of_decide_eq_true (p := r.residentClass = some .held) ?_
  split at h
  · cases h
  · cases h
  · rw [if_neg nofun] at h
    exact hheld rfl h
  · exact hheld rfl h

theorem ChainPhase.warm_facts (p : ChainPhase) : (p.mayHaveRecords → p.warm.mayHaveRecords) ∧
    (p.warm.isFault ↔ p.isFault) ∧ p.warm.targetsLimited ∧ (∀ x, p.warm ≠ .scanning x) ∧ (p.warm = .ready ↔ p = .ready) := by
  cases p with
  | disabled => exact ⟨id, Iff.rfl, trivial, nofun, iff_of_false nofun nofun⟩
  | resetting d => exact ⟨id, Iff.rfl, trivial, nofun, iff_of_false nofun nofun⟩
  | enumerating x => exact ⟨False.elim, Iff.rfl, trivial, nofun, iff_of_false nofun nofun⟩
  | ready => exact ⟨id, Iff.rfl, trivial, nofun, Iff.rfl⟩
  | scanning x => exact ⟨fun _ => rfl, Iff.rfl, trivial, nofun, iff_of_false nofun nofun⟩
  | fault k => exact ⟨id, Iff.rfl, trivial, nofun, iff_of_false nofun nofun⟩

theorem State.Tables.warmReset {s : State} (hs : s.Tables) : s.warmReset.Tables := by
  have hslot : ∀ i : SlotId, s.warmReset.slots[i] = { s.slots[i] with
      record := (s.slots[i]).record.map fun r => { r with state := r.warmState (s.chains[r.chain]).phase } } := fun i => by
    rw [Fin.getElem_fin, State.warmReset_slot]
    rfl
  have hnamed : ∀ {h : Handle} {i : SlotId} {q : TargetRecord}, s.warmReset.named h = some (i, q) ↔
      ∃ r, s.named h = some (i, r) ∧ q = { r with state := r.warmState (s.chains[r.chain]).phase } := fun {h i q} => by
    rw [State.named_congr (s := { s with slots := s.warmReset.slots }) (t := s.warmReset) rfl]
    exact named_rewritten hslot
  have hrecord : ∀ {i : SlotId} {q : TargetRecord}, (s.warmReset.slots[i]).record = some q → ∃ r,
      (s.slots[i]).record = some r ∧ q = { r with state := r.warmState (s.chains[r.chain]).phase } := fun {i q} hq => by
    rw [hslot, Option.map_eq_some_iff] at hq
    obtain ⟨r, hr, rfl⟩ := hq
    exact ⟨r, hr, rfl⟩
  have hjob : ∀ {j : JobId} {x : Job}, (s.warmReset.jobs[j]).job ≠ some x := fun {j x} hx => by
    rw [Fin.getElem_fin, State.warmReset_job] at hx
    split at hx
    · cases hx
    · next hnone => exact hnone (by rw [hx]; rfl)
  have hchain : ∀ c : ChainId, (s.warmReset.chains[c]).phase = (s.chains[c]).phase.warm ∧
      (s.warmReset.chains[c]).queue = [] ∧ (s.warmReset.chains[c]).parks = s.warmParks c := fun c => by
    rw [Fin.getElem_fin, State.warmReset_chain]
    exact ⟨rfl, rfl, rfl⟩
  have hparks : ∀ {c : ChainId} {h : Handle}, h ∈ s.warmParks c → (s.chains[c]).phase = .ready ∧
      ∃ i r, s.named h = some (i, r) ∧ r.chain = c ∧ r.warmState .ready = .releasing := fun {c h} hh => by
    unfold State.warmParks at hh
    split at hh
    · next hp =>
      obtain ⟨⟨i, r⟩, hmem, rfl⟩ := List.mem_map.mp hh
      obtain ⟨hmem, hstate⟩ := List.mem_filter.mp hmem
      obtain ⟨hr, hc⟩ := State.chainRecords_sound hmem
      exact ⟨hp, i, r, State.named_eq_some.mpr ⟨hr, rfl⟩, hc, of_decide_eq_true hstate⟩
    · cases hh
  refine ⟨⟨fun i => ?_, fun j => ?_⟩, fun i q hq => ?_, State.placesDistinct_iff.mpr fun i j q q' hq hq' hc hpos => ?_,
    ⟨fun i q l hq ho => ?_, fun _ _ _ hx => absurd hx hjob⟩, fun l => ?_, fun c => ?_, ⟨fun c j => ?_, fun c hc => ?_⟩,
    ⟨fun c x _ hx => ?_, fun _ _ hx => absurd hx hjob⟩, ⟨fun _ _ hx => absurd hx hjob, fun _ _ _ hx => absurd hx hjob⟩,
    fun c => ?_, ⟨fun e h he => ?_, fun e k h he hk => ?_, fun e he => ?_⟩, fun hl => ?_⟩
  · rw [hslot]
    exact hs.generations.1 i
  · rw [Fin.getElem_fin, State.warmReset_job]
    split
    · exact JobSlot.freed_generation (hs.generations.2 j)
    · exact hs.generations.2 j
  · obtain ⟨r, hr, rfl⟩ := hrecord hq
    obtain ⟨hmay, hsuspect, hunknown, -⟩ := hs.suspect i r hr
    obtain ⟨hwarm, hfault, -⟩ := ChainPhase.warm_facts (s.chains[r.chain]).phase
    rw [(hchain _).1]
    exact ⟨hwarm hmay, (r.warmState_isSuspect _).trans (hsuspect.trans hfault.symm),
      hunknown.trans (r.warmState_isSuspect _).symm, fun _ => r.warmState_owner _⟩
  · obtain ⟨r, hr, rfl⟩ := hrecord hq
    obtain ⟨r', hr', rfl⟩ := hrecord hq'
    exact State.placesDistinct_iff.mp hs.places i j r r' hr hr' hc hpos
  · obtain ⟨r, hr, rfl⟩ := hrecord hq
    cases (r.warmState_owner _).symm.trans ho
  · have hle := jobsHeld_le (s := s) (t := s.warmReset) (l := l) fun j y hy => absurd hy hjob
    exact hle.trans (hs.limited l)
  · rw [(hchain c).1]
    exact (ChainPhase.warm_facts _).2.2.1
  · rw [(hchain c).2.1]
    exact iff_of_false List.not_mem_nil fun ⟨x, hx, _⟩ => hjob hx
  · refine ⟨(hchain c).2.1, ?_⟩
    rw [(hchain c).2.2, State.warmParks, if_neg]
    intro hp
    refine hc (.inl ?_)
    rw [(hchain c).1]
    exact (ChainPhase.warm_facts _).2.2.2.2.mpr hp
  · rw [(hchain c).1] at hx
    exact absurd hx ((ChainPhase.warm_facts _).2.2.2.1 x)
  · rw [(hchain c).2.2]
    refine ⟨?_, fun h hh => ?_, fun x h hx => ?_⟩
    · unfold State.warmParks
      split
      · exact chainRecords_handles_nodup s c _
      · exact List.nodup_nil
    · obtain ⟨hp, i, r, hn, hc, hstate⟩ := hparks hh
      have hclass : r.residentClass = some .held := TargetRecord.held_of_warmState hstate
      refine ⟨⟨i, _, hnamed.mpr ⟨r, hn, rfl⟩, hc, ?_, hclass⟩, ?_⟩
      · subst hc
        rw [hp]
        exact hstate
      · rintro ⟨j, x, hx, _⟩
        exact hjob hx
    · rw [(hchain c).1] at hx
      exact absurd hx ((ChainPhase.warm_facts _).2.2.2.1 x)
  · rw [Fin.getElem_fin, State.warmReset_lines, Vector.getElem_ofFn] at he
    obtain ⟨i, r, hn⟩ := hs.lines.1 e h he
    exact ⟨i, _, hnamed.mpr ⟨r, hn, rfl⟩⟩
  · rw [Fin.getElem_fin, State.warmReset_lines, Vector.getElem_ofFn] at he hk
    exact hs.lines.2.1 e k h he hk
  · rw [Fin.getElem_fin, State.warmReset_lines, Vector.getElem_ofFn] at he ⊢
    obtain ⟨hp, hm, -⟩ := hs.lines.2.2 e he
    exact ⟨hp, hm, rfl⟩
  · rw [State.live, State.warmReset_resetLow, Bool.not_true, Bool.and_false] at hl
    cases hl

end Sys2Proof.Machine
end

section
/-! PROOFS. The laws of the tables through the directory's events: claims, releases and ended sessions, written and reset
residents, and the completion of scans and test resets. -/

namespace Sys2Proof.Machine
set_option Elab.async false

section
variable {s : State}

/-! ### The state of one record -/

/-- One record takes another state. -/
theorem State.Tables.setState (hs : s.Tables) {i : SlotId} {r : TargetRecord} (hr : (s.slots[i]).record = some r)
    {x : RecordState} (hstep : RecordStep s i r { r with state := x }) :
    (s.updRecord i fun y => { y with state := x }).Tables := by
  refine hs.withRecords (f := fun k y => if k = i then { y with state := x } else y) (fun k => ?_) fun k q hq => ?_
  · rw [Fin.getElem_fin, set_getElem]
    by_cases hk : k = i
    · subst hk
      simp only [if_true]
    · simp only [hk, if_false, Option.map_id']
      rfl
  · by_cases hk : k = i
    · subst hk
      cases hr.symm.trans hq
      rw [if_pos rfl]
      exact hstep
    · rw [if_neg hk]
      exact hs.recordStep_refl hq

/-- A record with a job that waits is CLAIMED, or in RELEASING for a RUNNING job. -/
theorem State.Tables.target_state (hs : s.Tables) {i : SlotId} {r : TargetRecord} {j : JobId} {x : Job}
    (hr : (s.slots[i]).record = some r) (hx : (s.jobs[j]).job = some x) (hd : x.isDone = false)
    (hk : x.kind.target = some (s.handleOf i)) :
    r.chain = x.chain ∧ ((∃ l, x.session = some l ∧ r.state = .claimed l) ∨ (x.status = .running ∧ r.state = .releasing)) := by
  obtain ⟨i', r', hn, hc, hstate⟩ := hs.targets.2 j x _ hx hd hk
  cases hn.symm.trans (State.named_eq_some.mpr ⟨hr, rfl⟩)
  exact ⟨hc, hstate⟩

/-- A record whose park is pending is in RELEASING with a HELD resident. -/
theorem State.Tables.pending_state (hs : s.Tables) {i : SlotId} {r : TargetRecord} {c : ChainId}
    (hr : (s.slots[i]).record = some r) (hp : s.parkPending c (s.handleOf i)) :
    r.state = .releasing ∧ r.residentClass = some .held := by
  obtain ⟨⟨i', r', hn, _, hstate, hclass⟩, _⟩ := hs.parkable_of_pending hp
  cases hn.symm.trans (State.named_eq_some.mpr ⟨hr, rfl⟩)
  exact ⟨hstate, hclass⟩

/-- A record that is not SUSPECT and has an owner or waits for a job stands on a working chain. -/
theorem State.Tables.working_of_phase (hs : s.Tables) {i : SlotId} {r : TargetRecord} (hr : (s.slots[i]).record = some r)
    (hsuspect : ¬ r.state.isSuspect) (hphase : (s.chains[r.chain]).phase ≠ .resetting .returning) :
    (s.chains[r.chain]).phase.working := by
  obtain ⟨hmay, hfault, -, -⟩ := hs.suspect i r hr
  cases hp : (s.chains[r.chain]).phase with
  | disabled => rw [hp] at hmay; exact hmay.elim
  | resetting d => rw [hp] at hmay hphase; exact absurd (congrArg _ hmay) hphase
  | enumerating x => rw [hp] at hmay; exact hmay.elim
  | ready => exact .inl rfl
  | scanning x => exact .inr ⟨x, rfl⟩
  | fault k => rw [hp] at hfault; exact absurd (hfault.mpr trivial) hsuspect

/-- CLAIM takes an AVAILABLE record of a working chain (R57). -/
theorem State.Tables.claim (hs : s.Tables) {i : SlotId} {r : TargetRecord} {l : SessionId} (ho : s.isOpen l)
    (hr : (s.slots[i]).record = some r) (hstate : r.state = .available)
    (hphase : (s.chains[r.chain]).phase ≠ .resetting .returning) :
    (s.updRecord i fun x => { x with state := .claimed l }).Tables := by
  refine hs.setState hr ⟨rfl, rfl, fun m hm => ?_, ?_, ?_, fun h => absurd h hphase, fun j x hx hd hk => ?_, fun hp => ?_⟩
  · cases hm
    exact ho
  · rw [hstate]
    exact Iff.rfl
  · have hunknown := (hs.suspect i r hr).2.2.1
    rw [hstate] at hunknown
    exact hunknown
  · obtain ⟨_, ⟨_, _, h⟩ | ⟨_, h⟩⟩ := hs.target_state hr hx hd hk <;> cases hstate.symm.trans h
  · cases hstate.symm.trans (hs.pending_state hr hp).1

/-- A RELEASING record without work and park becomes AVAILABLE (R61, R64). -/
theorem State.Tables.makeAvailable (hs : s.Tables) {i : SlotId} {r : TargetRecord} (hr : (s.slots[i]).record = some r)
    (hstate : r.state = .releasing) (hwaits : ¬ s.jobWaits (s.handleOf i))
    (hpark : ¬ s.parkPending r.chain (s.handleOf i)) :
    (s.updRecord i fun x => { x with state := .available }).Tables := by
  refine hs.setState hr ⟨rfl, rfl, nofun, ?_, ?_, fun _ => rfl, fun j x hx hd hk => ?_, fun hp => absurd hp hpark⟩
  · rw [hstate]
    exact Iff.rfl
  · have hunknown := (hs.suspect i r hr).2.2.1
    rw [hstate] at hunknown
    exact hunknown
  · exact absurd ⟨j, x, hx, hd, hk⟩ hwaits

/-! ### Claims that end -/

theorem State.releasedState_isSuspect (i : SlotId) (r : TargetRecord) :
    (s.releasedState i r).isSuspect ↔ r.state.isSuspect := by
  unfold State.releasedState
  cases r.state with
  | suspect o => exact Iff.rfl
  | _ => dsimp only; split <;> exact Iff.rfl

theorem State.releasedState_of_running {i : SlotId} {r : TargetRecord} (h : s.runningFor (s.handleOf i) = true)
    (hsuspect : ¬ r.state.isSuspect) : s.releasedState i r = .releasing := by
  unfold State.releasedState
  cases hr : r.state with
  | suspect o => rw [hr] at hsuspect; exact absurd trivial hsuspect
  | _ => simp only [h, Bool.true_or, if_true]

theorem State.parksOnRelease_facts {i : SlotId} {r : TargetRecord} (h : s.parksOnRelease i r = true) :
    ¬ r.state.isSuspect ∧ s.runningFor (s.handleOf i) = false ∧ r.residentClass = some .held ∧
      s.releasedState i r = .releasing := by
  unfold State.parksOnRelease at h
  unfold State.releasedState
  cases hr : r.state with
  | suspect o => rw [hr] at h; cases h
  | _ =>
    rw [hr] at h
    dsimp only at h
    rw [Bool.and_eq_true, Bool.not_eq_true'] at h
    exact ⟨id, h.1, of_decide_eq_true h.2, by simp only [h.2, Bool.or_true, if_true]⟩

theorem State.runningFor_of {j : JobId} {x : Job} {h : Handle} (hx : (s.jobs[j]).job = some x) (hr : x.status = .running)
    (hk : x.kind.target = some h) : s.runningFor h = true := by
  rw [State.runningFor, anyJob_eq_true]
  refine ⟨j, x, hx, ?_⟩
  rw [Job.isRunning, hr, hk, decide_eq_true rfl, decide_eq_true rfl]
  rfl

/-- The claims on some owned records end, none of which a QUEUED job names (R60, R66). -/
theorem State.Tables.releaseRecords (hs : s.Tables) {p : SlotId → TargetRecord → Bool}
    (hown : ∀ (i : SlotId) (r : TargetRecord), (s.slots[i]).record = some r → p i r = true → r.state.owner ≠ none)
    (hrun : ∀ (i : SlotId) (r : TargetRecord) (j : JobId) (x : Job), (s.slots[i]).record = some r → p i r = true →
      (s.jobs[j]).job = some x → x.isDone = false → x.kind.target = some (s.handleOf i) → x.status = .running) :
    (s.releaseRecords p).Tables := by
  have hnotPending : ∀ {i : SlotId} {r : TargetRecord} {c : ChainId}, (s.slots[i]).record = some r → p i r = true →
      ¬ s.parkPending c (s.handleOf i) := fun {i r c} hr hpr hp => by
    have howner := hown i r hr hpr
    rw [(hs.pending_state hr hp).1] at howner
    exact howner rfl
  have hslot : ∀ i : SlotId, (s.releaseRecords p).slots[i] = { s.slots[i] with
      record := (s.slots[i]).record.map fun r => if p i r then { r with state := s.releasedState i r } else r } := fun i => by
    rw [Fin.getElem_fin, State.releaseRecords_getElem]
    rfl
  have hs1 : ({ s with slots := (s.releaseRecords p).slots } : State).Tables := by
    refine hs.withRecords hslot fun i r hr => ?_
    cases hpr : p i r with
    | false =>
      rw [if_neg Bool.false_ne_true]
      exact hs.recordStep_refl hr
    | true =>
      rw [if_pos rfl]
      refine ⟨rfl, rfl, fun l hl => ?_, State.releasedState_isSuspect i r, ?_, fun _ => State.releasedState_owner s i r,
        fun j x hx hd hk => .inr ?_, fun hp => absurd hp (hnotPending hr hpr)⟩
      · rw [State.releasedState_owner] at hl
        cases hl
      · exact (hs.suspect i r hr).2.2.1.trans (State.releasedState_isSuspect i r).symm
      · have hrunning := hrun i r j x hr hpr hx hd hk
        refine ⟨hrunning, State.releasedState_of_running (State.runningFor_of hx hrunning hk) ?_⟩
        obtain ⟨_, ⟨_, _, h⟩ | ⟨_, h⟩⟩ := hs.target_state hr hx hd hk <;> rw [h] <;> exact id
  have hchain : ∀ c : ChainId, (s.releaseRecords p).chains[c] = { s.chains[c] with
      parks := (s.chains[c]).parks ++ ((s.chainRecords c).filter fun ir => p ir.1 ir.2 && s.parksOnRelease ir.1 ir.2).map
        fun ir => s.handleOf ir.1 } := fun c => by
    rw [Fin.getElem_fin, State.releaseRecords_chain]
    rfl
  have hnew : ∀ {c : ChainId} {h : Handle}, h ∈ ((s.chainRecords c).filter fun ir => p ir.1 ir.2 &&
      s.parksOnRelease ir.1 ir.2).map (fun ir => s.handleOf ir.1) → ∃ i r, h = s.handleOf i ∧
        (s.slots[i]).record = some r ∧ r.chain = c ∧ p i r = true ∧ s.parksOnRelease i r = true := fun {c h} hh => by
    obtain ⟨⟨i, r⟩, hmem, rfl⟩ := List.mem_map.mp hh
    obtain ⟨hmem, hboth⟩ := List.mem_filter.mp hmem
    obtain ⟨hr, hc⟩ := State.chainRecords_sound hmem
    rw [Bool.and_eq_true] at hboth
    exact ⟨i, r, rfl, hr, hc, hboth⟩
  refine (hs1.withParks (v := (s.releaseRecords p).chains) (fun c => by rw [hchain]) (fun c => by rw [hchain]) fun c => ?_).congr
    ⟨by simp, by simp, by simp, rfl, by simp, rfl, by simp, by simp⟩
  rw [hchain]
  obtain ⟨hnodup, hall, hscan⟩ := hs1.parks c
  refine ⟨?_, fun h hh => ?_, fun hc => ?_, fun x h hx hsource hh => ?_⟩
  · refine List.nodup_append.mpr ⟨(hs.parks c).1, chainRecords_handles_nodup s c _, fun h hold k hk heq => ?_⟩
    subst heq
    obtain ⟨i, r, rfl, hr, -, hpr, -⟩ := hnew hk
    exact hnotPending hr hpr (.inl hold)
  · obtain hold | hh := List.mem_append.mp hh
    · exact hall h hold
    · obtain ⟨i, r, rfl, hr, hc, hpr, hparks⟩ := hnew hh
      obtain ⟨-, hidle, hheld, hstate⟩ := State.parksOnRelease_facts hparks
      refine ⟨⟨i, { r with state := s.releasedState i r }, ?_, hc, hstate, hheld⟩, ?_⟩
      · exact (named_rewritten hslot).mpr ⟨r, State.named_eq_some.mpr ⟨hr, rfl⟩, by rw [if_pos hpr]⟩
      · rintro ⟨j, x, hx, hd, hk⟩
        rw [State.runningFor_of (s := s) hx (hrun i r j x hr hpr hx hd hk) hk] at hidle
        cases hidle
  · refine List.append_eq_nil_iff.mpr ⟨(hs.queues.2 c hc).2, List.eq_nil_iff_forall_not_mem.mpr fun h hh => ?_⟩
    obtain ⟨i, r, rfl, hr, rfl, hpr, hparks⟩ := hnew hh
    refine hc (hs.working_of_phase hr (State.parksOnRelease_facts hparks).1 fun hreturning => ?_)
    exact hown i r hr hpr ((hs.suspect i r hr).2.2.2 hreturning)
  · obtain hold | hh := List.mem_append.mp hh
    · exact (hscan x h hx hsource).2 hold
    · obtain ⟨i, r, rfl, hr, -, hpr, -⟩ := hnew hh
      exact hnotPending hr hpr (.inr ⟨x, hx, hsource⟩)

/-- A job left by freeing was there before and is not among the freed. -/
theorem freeJobs_job {p : JobId → Job → Bool} {j : JobId} {x : Job} (hx : ((s.freeJobs p).jobs[j]).job = some x) :
    (s.jobs[j]).job = some x ∧ p j x = false := by
  rw [Fin.getElem_fin, State.freeJobs_getElem] at hx
  split at hx
  · cases hx
  · next hfit =>
    refine ⟨hx, Bool.eq_false_iff.mpr fun hp => hfit ?_⟩
    rw [State.jobFits, Fin.getElem_fin, hx]
    exact hp

/-- RELEASE frees the caller's QUEUED jobs of its record and ends the claim (R59, R60). -/
theorem State.Tables.releaseClaim (hs : s.Tables) {l : SessionId} {i : SlotId} {r : TargetRecord}
    (hr : (s.slots[i]).record = some r) (ho : r.ownedBy l = true) : (s.releaseClaim l i).Tables := by
  have hslots : (s.freeJobs (releaseFrees l (s.handleOf i))).slots = s.slots := State.freeJobs_slots s _
  have hs1 : (s.freeJobs (releaseFrees l (s.handleOf i))).Tables :=
    hs.freeJobs fun j y _ hrun => releaseFrees_of_running l _ j y (decide_eq_true hrun)
  refine hs1.releaseRecords (p := fun k _ => decide (k = i)) (fun k q hq hk => ?_) fun k q j x hq hk hx hd htarget => ?_
  · rw [hslots] at hq
    obtain rfl := of_decide_eq_true hk
    cases hr.symm.trans hq
    rw [ownedBy_eq_true.mp ho]
    exact Option.some_ne_none l
  · obtain rfl := of_decide_eq_true hk
    obtain ⟨hx', hkept⟩ := freeJobs_job hx
    have htarget' : x.kind.target = some (s.handleOf k) := by
      rw [State.handleOf, hslots] at htarget
      exact htarget
    rw [hslots] at hq
    cases hr.symm.trans hq
    obtain ⟨_, ⟨m, hm, hclaimed⟩ | ⟨hrun, _⟩⟩ := hs.target_state hr hx' hd htarget'
    · refine (Job.isDone_eq_false.mp hd).resolve_left fun hqueued => ?_
      have hml : m = l := by
        have howner := ownedBy_eq_true.mp ho
        rw [hclaimed] at howner
        exact Option.some.inj howner
      rw [releaseFrees, hqueued, hm, hml, htarget', decide_eq_true rfl, decide_eq_true rfl] at hkept
      cases hkept
    · exact hrun

/-- Orphaning jobs and ending claims do not read each other. -/
theorem releaseRecords_orphaned (l : SessionId) (p : SlotId → TargetRecord → Bool) :
    (s.mapJobs fun _ x => x.orphaned l).releaseRecords p = (s.releaseRecords p).mapJobs fun _ x => x.orphaned l := by
  have hreleased : ∀ i r, (s.mapJobs fun _ x => x.orphaned l).releasedState i r = s.releasedState i r := fun i r => by
    unfold State.releasedState
    rw [runningFor_orphaned]
    rfl
  have hparks : ∀ i r, (s.mapJobs fun _ x => x.orphaned l).parksOnRelease i r = s.parksOnRelease i r := fun i r => by
    unfold State.parksOnRelease
    rw [runningFor_orphaned]
    rfl
  refine state_ext (by simp) (by simp) (by simp) (by simp) (by simp) (by simp) (vector_ext fun i => ?_) (by simp)
    (vector_ext fun j => by simp) (vector_ext fun c => ?_) (by simp) (by simp)
  · simp only [State.releaseRecords_getElem, State.mapJobs_slots, hreleased]
  · simp only [State.releaseRecords_chain, State.mapJobs_chains, hparks]
    rfl

/-- The end of a session (R66, R98, R142): its waiting and DONE jobs freed, its claims ended, its RUNNING jobs orphans. -/
theorem State.Tables.endSession (hs : s.Tables) (l : SessionId) : (s.endSession l).Tables := by
  have hs1 : (s.freeJobs fun _ x => decide (x.session = some l) && !x.isRunning).Tables := hs.freeJobs fun j y _ hrun => by
    rw [Job.isRunning, hrun, decide_eq_true rfl, Bool.not_true, Bool.and_false]
  have hrunning : ∀ {j : JobId} {x : Job},
      ((s.freeJobs fun _ x => decide (x.session = some l) && !x.isRunning).jobs[j]).job = some x → x.session = some l →
        x.status = .running := fun {j x} hx hl => by
    have hkept := (freeJobs_job hx).2
    rw [hl, decide_eq_true rfl, Bool.true_and, Bool.not_eq_false'] at hkept
    exact of_decide_eq_true hkept
  have hs2 := hs1.releaseRecords (p := fun _ r => r.ownedBy l) (fun i r _ ho => by
      rw [ownedBy_eq_true.mp ho]
      exact Option.some_ne_none l) fun i r j x hr ho hx hd hk => by
    obtain ⟨_, ⟨m, hm, hclaimed⟩ | ⟨hrun, _⟩⟩ := hs1.target_state hr hx hd hk
    · have howner := ownedBy_eq_true.mp ho
      rw [hclaimed] at howner
      exact hrunning hx (hm.trans howner)
    · exact hrun
  have hfree : ∀ {i : SlotId} {r : TargetRecord},
      (((s.freeJobs fun _ x => decide (x.session = some l) && !x.isRunning).releaseRecords
        fun _ r => r.ownedBy l).slots[i]).record = some r → r.state.owner ≠ some l := fun {i r} hr ho => by
    rw [Fin.getElem_fin, State.releaseRecords_getElem, Option.map_eq_some_iff] at hr
    obtain ⟨q, -, rfl⟩ := hr
    split at ho
    · rw [State.releasedState_owner] at ho
      cases ho
    · next hq => exact hq (ownedBy_eq_true.mpr ho)
  have hs3 := hs2.orphan (l := l) fun j z hz hl hd => by
    have hz' : ((s.freeJobs fun _ x => decide (x.session = some l) && !x.isRunning).jobs[j]).job = some z := by
      rw [State.releaseRecords_jobs] at hz
      exact hz
    refine ⟨hrunning hz' hl, fun k hk => ?_⟩
    obtain ⟨i, r, hn, -, ⟨m, hm, hclaimed⟩ | ⟨-, hreleasing⟩⟩ := hs2.targets.2 j z k hz hd hk
    · refine absurd ?_ (hfree (State.named_eq_some.mp hn).1)
      rw [hclaimed, ← hl, hm]
      rfl
    · exact ⟨i, r, hn, hreleasing⟩
  have hs4 := hs3.closeSession (l := l) (fun i r hr => hfree (by rwa [State.mapJobs_slots] at hr)) fun j x hx => by
    rw [Fin.getElem_fin, State.mapJobs_getElem, JobSlot.orphaned, Option.map_eq_some_iff] at hx
    obtain ⟨z, -, rfl⟩ := hx
    split
    · exact nofun
    · next hz => exact hz
  rw [← releaseRecords_orphaned, ← State.endJobs] at hs4
  exact hs4.congr ⟨State.updLink_power _ _ _, State.updLink_resetLow _ _ _, State.updLink_tickRunning _ _ _,
    State.updLink_slots _ _ _, State.updLink_jobs _ _ _, State.updLink_chains _ _ _, State.updLink_lines _ _ _,
    fun _ => by rw [State.endSession, State.updLink_sessions]⟩

end

end Sys2Proof.Machine
end

section
/-! PROOFS. The laws of the tables through the completion of scans and test resets (R16, R61, R64, R113, R124, R128), chain
faults (R92, R117), rescans (R47) and the enumeration's end (R36, R43). -/

namespace Sys2Proof.Machine
set_option Elab.async false

section
variable {s : State}

/-! ### Residents -/

/-- No record of a chain out of FAULT is SUSPECT. -/
theorem State.Tables.not_suspect (hs : s.Tables) {i : SlotId} {r : TargetRecord} (hr : (s.slots[i]).record = some r)
    (hfault : ¬ (s.chains[r.chain]).phase.isFault) : ¬ r.state.isSuspect :=
  mt (hs.suspect i r hr).2.1.mp hfault

/-- An IR scan's residents are written for a target without a pending park (R16). -/
theorem State.Tables.writeResidents (hs : s.Tables) {c : ChainId} {target : Option Handle} (m : Fin 8)
    (hfault : ¬ (s.chains[c]).phase.isFault) (htarget : ∀ h, target = some h → ¬ s.parkPending c h) :
    (s.writeResidents c target m).Tables := by
  have hslot : ∀ i : SlotId, (s.writeResidents c target m).slots[i] = { s.slots[i] with
      record := (s.slots[i]).record.map fun r =>
        if r.chain = c then
          if target = some (s.handleOf i) then { r with resident := .index m }
          else if r.resident = .resetDefault then { r with resident := .index 0 }
          else r
        else r } := fun i => by
    rw [Fin.getElem_fin, State.writeResidents_getElem]
    rfl
  have hwritten : ∀ {i : SlotId} {r : TargetRecord} (k : Fin 8), (s.slots[i]).record = some r → r.chain = c →
      (s.parkPending r.chain (s.handleOf i) → False) → RecordStep s i r { r with resident := .index k } :=
    fun {i r} k hr hc hpark => by
      subst hc
      have hsuspect : ¬ r.state.isSuspect := hs.not_suspect hr hfault
      exact ⟨rfl, rfl, fun l ho => hs.owners.1 i r l hr ho, Iff.rfl, iff_of_false nofun hsuspect,
        (hs.suspect i r hr).2.2.2, fun _ _ _ _ _ => .inl rfl, fun hp => (hpark hp).elim⟩
  refine (hs.withRecords (v := (s.writeResidents c target m).slots) hslot fun i r hr => ?_).congr
    ⟨by simp, by simp, by simp, rfl, by simp, by simp, by simp, by simp⟩
  split
  · next hc =>
    split
    · next ht => exact hwritten m hr hc fun hp => htarget _ ht (hc ▸ hp)
    · split
      · next hreset =>
        refine hwritten 0 hr hc fun hp => ?_
        have hclass := (hs.pending_state hr hp).2
        rw [TargetRecord.residentClass, hreset] at hclass
        cases hclass
      · exact hs.recordStep_refl hr
  · exact hs.recordStep_refl hr

/-- A test reset's records, on a chain without work and parks (R16, R124, R128). -/
theorem State.Tables.resetRecords (hs : s.Tables) {c : ChainId} (hfault : ¬ (s.chains[c]).phase.isFault)
    (hparks : (s.chains[c]).parks = []) (hscan : ∀ x, (s.chains[c]).phase ≠ .scanning x) : (s.resetRecords c).Tables := by
  have hslot : ∀ i : SlotId, (s.resetRecords c).slots[i] = { s.slots[i] with
      record := (s.slots[i]).record.map fun r =>
        if r.chain = c then
          { r with
            resident := .resetDefault
            state := if r.state = .releasing then .available else r.state }
        else r } := fun i => by
    rw [Fin.getElem_fin, State.resetRecords_getElem]
    rfl
  have hsettled : ∀ x : RecordState, (if x = .releasing then .available else x).isSuspect ↔ x.isSuspect := fun x => by
    cases x <;> exact Iff.rfl
  refine (hs.withRecords (v := (s.resetRecords c).slots) hslot fun i r hr => ?_).congr
    ⟨by simp, by simp, by simp, rfl, by simp, by simp, by simp, by simp⟩
  split
  · next hc =>
    subst hc
    refine ⟨rfl, rfl, fun l ho => ?_, hsettled r.state,
      iff_of_false nofun (mt (hsettled r.state).mp (hs.not_suspect hr hfault)), fun hp => ?_, fun j x hx hd hk => ?_,
      fun hp => ?_⟩
    · rw [RecordState.owner_settled] at ho
      exact hs.owners.1 i r l hr ho
    · rw [RecordState.owner_settled]
      exact (hs.suspect i r hr).2.2.2 hp
    · obtain ⟨hchain, ⟨l, _, hclaimed⟩ | ⟨hrun, _⟩⟩ := hs.target_state hr hx hd hk
      · refine .inl ?_
        rw [hclaimed, if_neg nofun]
      · obtain ⟨z, hz, _⟩ := hs.runs.2 j x hx hrun
        refine absurd ?_ (hscan z)
        simp only [hchain]
        exact hz
    · obtain hmem | ⟨x, hx, _⟩ := hp
      · rw [hparks] at hmem
        cases hmem
      · exact absurd hx (hscan x)
  · exact hs.recordStep_refl hr

/-- A chain's park list may be emptied. -/
theorem State.Tables.clearParks (hs : s.Tables) (c : ChainId) :
    (s.updChain c fun x => { x with parks := [] }).Tables := by
  refine (hs.withParks (v := (s.updChain c fun x => { x with parks := [] }).chains) (fun d => ?_) (fun d => ?_)
    fun d => ?_)
  · rw [Fin.getElem_fin, State.updChain_getElem]
    split
    · next hd => rw [hd]; rfl
    · rfl
  · rw [Fin.getElem_fin, State.updChain_getElem]
    split
    · next hd => rw [hd]; rfl
    · rfl
  · rw [Fin.getElem_fin, State.updChain_getElem]
    split
    · exact ⟨List.nodup_nil, fun h hh => absurd hh List.not_mem_nil, fun _ => rfl, fun _ _ _ _ => List.not_mem_nil⟩
    · obtain ⟨hnodup, hall, hscan⟩ := hs.parks d
      exact ⟨hnodup, hall, fun hd => (hs.queues.2 d hd).2, fun x h hx hsource => (hscan x h hx hsource).2⟩

/-- A park for one more record joins a working chain's list. -/
theorem State.Tables.appendPark (hs : s.Tables) {c : ChainId} {h : Handle} (hp : (s.chains[c]).phase = .ready)
    (hable : s.parkable c h) (hnew : h ∉ (s.chains[c]).parks) :
    (s.updChain c fun x => { x with parks := x.parks ++ [h] }).Tables := by
  refine (hs.withParks (v := (s.updChain c fun x => { x with parks := x.parks ++ [h] }).chains) (fun d => ?_) (fun d => ?_)
    fun d => ?_)
  · rw [Fin.getElem_fin, State.updChain_getElem]
    split
    · next hd => rw [hd]; rfl
    · rfl
  · rw [Fin.getElem_fin, State.updChain_getElem]
    split
    · next hd => rw [hd]; rfl
    · rfl
  · rw [Fin.getElem_fin, State.updChain_getElem]
    obtain ⟨hnodup, hall, hscan⟩ := hs.parks d
    split
    · next hd =>
      subst hd
      refine ⟨List.nodup_append.mpr ⟨hnodup, List.nodup_singleton h, fun k hk k' hk' heq => ?_⟩, fun k hk => ?_,
        fun hd => absurd (.inl hp) hd, fun x k hx => ?_⟩
      · rw [List.mem_singleton] at hk'
        exact hnew (hk' ▸ heq ▸ hk)
      · obtain hold | hk := List.mem_append.mp hk
        · exact hall k hold
        · rw [List.mem_singleton] at hk
          exact hk ▸ hable
      · cases hp.symm.trans hx
    · exact ⟨hnodup, hall, fun hd => (hs.queues.2 d hd).2, fun x h hx hsource => (hscan x h hx hsource).2⟩

/-! ### Completions -/

/-- The release decision has three outcomes (R61). -/
theorem State.decideRelease_cases (s : State) (c : ChainId) (target : Option Handle) :
    s.decideRelease c target = s ∨ ∃ (i : SlotId) (r : TargetRecord), target = some (s.handleOf i) ∧
      (s.slots[i]).record = some r ∧ r.state = .releasing ∧
      ((r.residentClass = some .held ∧
          s.decideRelease c target = s.updChain c fun x => { x with parks := x.parks ++ [s.handleOf i] }) ∨
        s.decideRelease c target = s.updRecord i fun y => { y with state := .available }) := by
  unfold State.decideRelease
  cases htarget : target with
  | none => exact .inl rfl
  | some h =>
    rw [Option.bind_some]
    cases hn : s.named h with
    | none => exact .inl rfl
    | some ir =>
      obtain ⟨i, r⟩ := ir
      obtain ⟨hr, rfl⟩ := State.named_eq_some.mp hn
      by_cases hstate : r.state = .releasing
      · refine .inr ⟨i, r, rfl, hr, hstate, ?_⟩
        simp only [hstate, if_true]
        cases hheld : r.held with
        | true => exact .inl ⟨of_decide_eq_true hheld, rfl⟩
        | false => exact .inr rfl
      · exact .inl (if_neg hstate)

/-- A job's scan completes: residents, release decision, the job's end and READY (R113). -/
theorem State.Tables.completeJob (hs : s.Tables) {c : ChainId} {x : Scan} {j : JobId}
    (hp : (s.chains[c]).phase = .scanning x) (hj : x.source = .job j) {y : Job} (hy : (s.jobs[j]).job = some y)
    (data : List Bool) : (((s.decideRelease c y.kind.target).finishJob c j .ok data).toReady c).Tables := by
  have hs2 := hs.finishSource hp hj .ok data
  obtain hdecided | ⟨i, r, htarget, hr, hstate, hdecided⟩ := s.decideRelease_cases c y.kind.target
  · rw [hdecided]
    exact hs2
  obtain ⟨y', hy', hrun⟩ := (hs.runs.1 c x j hp hj).2
  cases hy.symm.trans hy'
  have hwait : s.jobWaits (s.handleOf i) := ⟨j, y, hy, Job.not_done_of_running hrun, htarget⟩
  have hchain : r.chain = c := by
    obtain ⟨z, hz, hc, _⟩ := (hs.queues.1 c j).mp (hs.source_mem hp hj)
    cases hy.symm.trans hz
    exact (hs.target_state hr hy (Job.not_done_of_running hrun) htarget).1.trans hc
  have hidle : ¬ ((s.finishJob c j .ok data).toReady c).jobWaits (s.handleOf i) := by
    rintro ⟨k, z, hz, hd, hk⟩
    rw [State.toReady_jobs, Fin.getElem_fin, State.finishJob_getElem] at hz
    split at hz
    · obtain ⟨_, _, _, hdone⟩ := JobSlot.finished_job hz
      rw [hd] at hdone
      cases hdone
    · next hne =>
      obtain ⟨hzc, ⟨_, _, hclaimed⟩ | ⟨hzrun, _⟩⟩ := hs.target_state hr hz hd hk
      · cases hstate.symm.trans hclaimed
      · exact hne (ScanSource.job.inj ((hs.source_of_running hp hz (hzc.symm.trans hchain) hzrun).symm.trans hj))
  have hfree : s.handleOf i ∉ (s.chains[c]).parks := fun hmem =>
    (hs.parkable_of_pending (.inl hmem)).2 hwait
  have hparks : (((s.finishJob c j .ok data).toReady c).chains[c]).parks = (s.chains[c]).parks := by
    rw [Fin.getElem_fin, State.toReady_getElem, if_pos rfl, State.finishJob_chain, if_pos rfl]
    rfl
  have hready : (((s.finishJob c j .ok data).toReady c).chains[c]).phase = .ready := by
    rw [Fin.getElem_fin, State.toReady_getElem, if_pos rfl]
  have hslots : ((s.finishJob c j .ok data).toReady c).slots = s.slots := by
    rw [State.toReady_slots, State.finishJob_slots]
  have hhandle : ((s.finishJob c j .ok data).toReady c).handleOf i = s.handleOf i := by
    rw [State.handleOf, hslots, State.handleOf]
  obtain ⟨hheld, hdecided⟩ | hdecided := hdecided
  · rw [hdecided]
    have hable : ((s.finishJob c j .ok data).toReady c).parkable c (s.handleOf i) :=
      ⟨⟨i, r, by rw [State.named_congr hslots]; exact State.named_eq_some.mpr ⟨hr, rfl⟩, hchain, hstate, hheld⟩, hidle⟩
    refine (hs2.appendPark hready hable (hparks ▸ hfree)).congr ⟨by simp, by simp, by simp, by simp, vector_ext fun k => ?_,
      vector_ext fun d => ?_, by simp, by simp⟩
    · simp
    · by_cases hd : d = c <;> simp [hd]
  · rw [hdecided]
    refine (hs2.makeAvailable (i := i) (by rw [hslots]; exact hr) hstate (hhandle ▸ hidle) ?_).congr
      ⟨by simp, by simp, by simp, vector_ext fun k => by simp, vector_ext fun k => by simp, vector_ext fun d => by simp,
        by simp, by simp⟩
    rw [hhandle, hchain]
    rintro (hmem | ⟨z, hz, _⟩)
    · exact hfree (hparks ▸ hmem)
    · cases hready.symm.trans hz

/-- Ending a park and returning to READY do not read each other. -/
theorem endPark_toReady (s : State) (c : ChainId) (target : Option Handle) :
    (s.toReady c).endPark target = (s.endPark target).toReady c := by
  unfold State.endPark
  have hnamed : (s.toReady c).named = s.named := funext fun h => State.named_congr (State.toReady_slots s c) h
  rw [hnamed]
  split
  · split <;> rfl
  · rfl

theorem writeResidents_toReady (s : State) (c : ChainId) (target : Option Handle) (m : Fin 8) :
    (s.toReady c).writeResidents c target m = (s.writeResidents c target m).toReady c := by
  refine state_ext (by simp) (by simp) (by simp) (by simp) (by simp) (by simp) (vector_ext fun i => ?_)
    (by simp) (by simp) (vector_ext fun d => by simp) (by simp) (by simp)
  simp only [State.writeResidents_getElem, State.toReady_slots, State.handleOf]
  rfl

/-- A record without work and park settles at a park's end (R64). -/
theorem State.Tables.endPark (hs : s.Tables) {h : Handle} (hwaits : ¬ s.jobWaits h)
    (hpark : ∀ c, ¬ s.parkPending c h) : (s.endPark (some h)).Tables := by
  unfold State.endPark
  rw [Option.bind_some]
  cases hn : s.named h with
  | none => exact hs
  | some ir =>
    obtain ⟨i, r⟩ := ir
    obtain ⟨hr, rfl⟩ := State.named_eq_some.mp hn
    dsimp only
    split
    · next hstate => exact hs.makeAvailable hr hstate hwaits (hpark _)
    · exact hs

/-- A park's scan completes: residents, the record's state, and READY (R64, R113). -/
theorem State.Tables.completePark (hs : s.Tables) {c : ChainId} {x : Scan} {h : Handle}
    (hp : (s.chains[c]).phase = .scanning x) (hsource : x.source = .park h) (m : Fin 8) :
    (((s.writeResidents c (some h) m).endPark (some h)).toReady c).Tables ∧ ((s.endPark (some h)).toReady c).Tables := by
  have hs1 := hs.endScan hp hsource
  have hready : ((s.toReady c).chains[c]).phase = .ready := by
    rw [Fin.getElem_fin, State.toReady_getElem, if_pos rfl]
  obtain ⟨⟨⟨i, r, hn, hc, _⟩, hwaits⟩, hfree⟩ := (hs.parks c).2.2 x h hp hsource
  have hpark : ∀ d, ¬ (s.toReady c).parkPending d h := fun d hd => by
    have hcd : d = c := by
      obtain ⟨⟨i', r', hn', hc', _⟩, _⟩ := hs1.parkable_of_pending hd
      rw [State.named_congr (State.toReady_slots s c)] at hn'
      cases hn.symm.trans hn'
      exact hc'.symm.trans hc
    subst hcd
    obtain hmem | ⟨z, hz, _⟩ := hd
    · rw [Fin.getElem_fin, State.toReady_getElem, if_pos rfl] at hmem
      exact hfree hmem
    · cases hready.symm.trans hz
  rw [← endPark_toReady, ← endPark_toReady, ← writeResidents_toReady]
  have hwaits1 : ¬ (s.toReady c).jobWaits h := by rwa [State.jobWaits_congr (State.toReady_jobs s c)]
  refine ⟨?_, hs1.endPark hwaits1 hpark⟩
  have hs2 := hs1.writeResidents (c := c) (target := some h) m (by rw [hready]; exact id) fun k hk => by
    cases hk
    exact hpark c
  refine hs2.endPark ?_ fun d => ?_
  · rwa [State.jobWaits_congr (State.writeResidents_jobs _ _ _ _)]
  · rw [State.parkPending, State.writeResidents_chains]
    exact hpark d

/-- A scan whose echo check passed completes. -/
theorem State.Tables.completeScan (hs : s.Tables) {c : ChainId} {x : Scan} (hp : (s.chains[c]).phase = .scanning x)
    (tdi : List Bool) : (s.completeScan c (x.clock tdi)).Tables := by
  have hfault : ¬ (s.chains[c]).phase.isFault := by rw [hp]; exact id
  cases hsource : x.source with
  | park h =>
    obtain ⟨hwritten, hplain⟩ := hs.completePark hp hsource (s.scanIndex (x.clock tdi))
    have hs' : (x.clock tdi).source = .park h := hsource
    simp only [State.completeScan, hs', State.scanTarget]
    split
    · exact hwritten
    · exact hplain
  | job j =>
    obtain ⟨y, hy, hrun⟩ := (hs.runs.1 c x j hp hsource).2
    have hs' : (x.clock tdi).source = .job j := hsource
    simp only [State.completeScan, hs', State.scanTarget, hy, Option.bind_some]
    split
    · have hs1 := hs.writeResidents (c := c) (target := y.kind.target) (s.scanIndex (x.clock tdi)) hfault fun h hk hpark =>
        (hs.parkable_of_pending hpark).2 ⟨j, y, hy, Job.not_done_of_running hrun, hk⟩
      exact hs1.completeJob (x := x) (by rw [State.writeResidents_chains]; exact hp) hsource
        (by rw [State.writeResidents_jobs]; exact hy) _
    · exact hs.completeJob hp hsource hy _

theorem ChainPhase.not_working {p : ChainPhase} (hready : p ≠ .ready) (hscan : ∀ x, p ≠ .scanning x) : ¬ p.working := by
  rintro (h | ⟨x, h⟩)
  · exact hready h
  · exact hscan x h

/-- A chain without work in the table takes another phase that suits its records, with empty queue and park list. -/
theorem State.Tables.updPhase (hs : s.Tables) {c : ChainId} {f : Chain → Chain} (hqueue : (s.chains[c]).queue = [])
    (hscan : ∀ x, (s.chains[c]).phase ≠ .scanning x) (hempty : (f s.chains[c]).queue = [] ∧ (f s.chains[c]).parks = [])
    (hphase : ∀ x, (f s.chains[c]).phase ≠ .scanning x)
    (hrecords : ∀ (i : SlotId) (r : TargetRecord), (s.slots[i]).record = some r → r.chain = c →
      (f s.chains[c]).phase.mayHaveRecords ∧ (r.state.isSuspect ↔ (f s.chains[c]).phase.isFault) ∧
        ((f s.chains[c]).phase = .resetting .returning → r.state.owner = none))
    (hsized : (f s.chains[c]).phase.targetsLimited) : (s.updChain c f).Tables := by
  have hchain : (s.updChain c f).chains[c] = f s.chains[c] := by
    rw [Fin.getElem_fin, State.updChain_getElem, if_pos rfl]
    rfl
  refine hs.withPhase (v := (s.updChain c f).chains) (c := c) (fun d hd => ?_) ⟨hqueue, ?_⟩ ?_ ⟨hscan, ?_⟩ ?_ ?_
  · rw [Fin.getElem_fin, State.updChain_getElem, if_neg hd]
    rfl
  all_goals rw [hchain]
  · exact hempty.1
  · exact hempty.2
  · exact hphase
  · exact hrecords
  · exact hsized

/-- The job of a chain reset ends with the records in their reset state (R124). -/
theorem State.Tables.chainReset (hs : s.Tables) {c : ChainId} {x : Scan} {j : JobId}
    (hp : (s.chains[c]).phase = .scanning x) (hj : x.source = .job j) :
    ((((s.resetRecords c).updChain c fun y => { y with parks := [] }).finishJob c j .ok []).toReady c).Tables := by
  have hs2 := (hs.finishSource hp hj .ok []).clearParks c
  have hchain : (((s.finishJob c j .ok []).toReady c).updChain c fun y => { y with parks := [] }).chains[c] =
      { ((s.finishJob c j .ok []).toReady c).chains[c] with parks := [] } := by
    rw [Fin.getElem_fin, State.updChain_getElem, if_pos rfl]
    rfl
  have hready : ((((s.finishJob c j .ok []).toReady c).updChain c fun y => { y with parks := [] }).chains[c]).phase = .ready := by
    rw [hchain, Fin.getElem_fin, State.toReady_getElem, if_pos rfl]
  refine (hs2.resetRecords (c := c) (by rw [hready]; exact id) (by rw [hchain]) (fun z => by rw [hready]; nofun)).congr
    ⟨by simp, by simp, by simp, vector_ext fun k => by simp, vector_ext fun k => by simp, vector_ext fun d => ?_,
      by simp, by simp⟩
  by_cases hd : d = c <;> simp [hd]

/-- A return's test reset ends with the chain READY (R128). -/
theorem State.Tables.returned (hs : s.Tables) {c : ChainId} (hp : (s.chains[c]).phase = .resetting .returning) :
    ((s.resetRecords c).updChain c fun y => { y with phase := .ready, op := none, queue := [], parks := [] }).Tables := by
  have hidle : (s.chains[c]).phase ≠ .ready ∧ ∀ x, (s.chains[c]).phase ≠ .scanning x := by
    rw [hp]
    exact ⟨nofun, nofun⟩
  obtain ⟨hqueue, hparks⟩ := hs.queues.2 c (ChainPhase.not_working hidle.1 hidle.2)
  have hs1 := hs.resetRecords (c := c) (by rw [hp]; exact id) hparks hidle.2
  have hself : (s.resetRecords c).chains[c] = s.chains[c] := by rw [State.resetRecords_chains]
  refine hs1.updPhase (by rw [hself]; exact hqueue) (by rw [hself]; exact hidle.2) ⟨rfl, rfl⟩ (fun _ => nofun)
    (fun i r hr hc => ⟨trivial, ?_, nofun⟩) trivial
  refine iff_of_false (hs1.not_suspect hr ?_) id
  subst hc
  rw [hself, hp]
  exact id

/-! ### A chain fault -/

/-- A chain fault ends the chain's work and leaves its records SUSPECT (R19, R92, R117). -/
theorem State.Tables.declareFault (hs : s.Tables) {c : ChainId} {x : Scan} (hp : (s.chains[c]).phase = .scanning x) :
    (s.declareFault c).Tables := by
  have hs2 := (hs.failQueue (c := c) (.inr ⟨x, hp⟩)).clearParks c
  refine (hs2.withFault (w := (s.suspectRecords c).slots)
    (v := s.chains.set c { s.chains[c] with phase := .fault .check, op := none, queue := [], parks := [] })
    (c := c) (x := { s.chains[c] with phase := .fault .check, op := none, queue := [], parks := [] })
    (fun i => ?_) (fun d => ?_) trivial ⟨?_, rfl⟩ rfl).congr
    ⟨by simp, by simp, by simp, vector_ext fun i => ?_, vector_ext fun j => ?_, vector_ext fun d => ?_, by simp, fun l => ?_⟩
  · rw [Fin.getElem_fin, State.suspectRecords_getElem]
    simp [TargetRecord.suspected]
  · rw [Fin.getElem_fin, set_getElem]
    by_cases hd : d = c <;> simp [hd]
  · rw [Fin.getElem_fin, State.updChain_getElem, if_pos rfl]
    dsimp only
    rw [State.toReady_getElem, if_pos rfl, State.failQueue_chain, if_pos rfl]
  · simp [State.declareFault]
  · simp [State.declareFault]
  · by_cases hd : d = c <;> simp [State.declareFault, set_getElem, hd]
  · simp [State.declareFault]

/-! ### Rescans and enumerations -/

/-- An accepted RESCAN retires the chain's records and begins its enumeration (R47). -/
theorem State.Tables.rescanChain (hs : s.Tables) {l : SessionId} {c : ChainId} (h : s.rescanAllowed l c = true) :
    (s.rescanChain c).Tables := by
  have hs1 : (s.tellParties c).Tables := hs.congr
    ⟨by simp, by simp, by simp, by simp, by simp, by simp, by simp, fun o => by simp⟩
  have hself : (s.tellParties c).chains[c] = s.chains[c] := by rw [State.tellParties_chains]
  have hidle : (s.chains[c]).queue = [] ∧ (s.chains[c]).parks = [] ∧ ∀ x, (s.chains[c]).phase ≠ .scanning x := by
    unfold State.rescanAllowed at h
    split at h
    · next hp =>
      simp only [Bool.and_eq_true, Bool.not_eq_true', List.isEmpty_iff] at h
      refine ⟨List.eq_nil_iff_forall_not_mem.mpr fun j hj => ?_, h.1.2, fun x => by rw [hp]; nofun⟩
      obtain ⟨y, hy, hc, hd⟩ := (hs.queues.1 c j).mp hj
      exact Bool.eq_false_iff.mp h.1.1 (State.chainHasWork_eq_true.mpr ⟨j, y, hy, hd, hc⟩)
    · next k hp =>
      have hidle : (s.chains[c]).phase ≠ .ready ∧ ∀ x, (s.chains[c]).phase ≠ .scanning x := by
        rw [hp]
        exact ⟨nofun, nofun⟩
      obtain ⟨hqueue, hparks⟩ := hs.queues.2 c (ChainPhase.not_working hidle.1 hidle.2)
      exact ⟨hqueue, hparks, hidle.2⟩
    · cases h
  obtain ⟨hqueue, hparks, hscan⟩ := hidle
  have hs2 := hs1.retire (c := c) (by rw [hself]; exact hqueue) (by rw [hself]; exact hparks) (by rw [hself]; exact hscan)
  have hself2 : ((s.tellParties c).retire c).chains[c] = s.chains[c] := by rw [State.retire_chains, hself]
  refine hs2.updPhase (by rw [hself2]; exact hqueue) (by rw [hself2]; exact hscan) ?_ (fun _ => nofun)
    (fun i r hr hc => absurd hc (retire_record.mp hr).2) trivial
  rw [hself2]
  exact ⟨hqueue, hparks⟩

/-- No record stands on a chain in its enumeration. -/
theorem State.Tables.no_records (hs : s.Tables) {c : ChainId} (hp : (s.chains[c]).phase.enumerates) {i : SlotId}
    {r : TargetRecord} (hr : (s.slots[i]).record = some r) : r.chain ≠ c := by
  rintro rfl
  have hmay := (hs.suspect i r hr).1
  obtain h | ⟨x, h⟩ := hp <;> rw [h] at hmay
  · cases hmay
  · exact hmay

/-- A chain in its enumeration may take any phase without a scan in progress. -/
theorem State.Tables.enumPhase (hs : s.Tables) {c : ChainId} (hp : (s.chains[c]).phase.enumerates) {f : Chain → Chain}
    (hempty : (f { s.chains[c] with queue := [], parks := [] }).queue = [] ∧
      (f { s.chains[c] with queue := [], parks := [] }).parks = []) (hscan : ∀ x, (f s.chains[c]).phase ≠ .scanning x)
    (hsized : (f s.chains[c]).phase.targetsLimited) : (s.updChain c f).Tables := by
  have hidle : (s.chains[c]).phase ≠ .ready ∧ ∀ x, (s.chains[c]).phase ≠ .scanning x := by
    obtain h | ⟨y, h⟩ := hp <;> rw [h] <;> exact ⟨nofun, nofun⟩
  obtain ⟨hqueue, hparks⟩ := hs.queues.2 c (ChainPhase.not_working hidle.1 hidle.2)
  have hself : { s.chains[c] with queue := [], parks := [] } = s.chains[c] := by
    rw [← hqueue, ← hparks]
  exact hs.updPhase hqueue hidle.2 (hself ▸ hempty) hscan (fun i r hr hc => absurd hc (hs.no_records hp hr)) hsized

theorem State.Tables.tellWatchers (hs : s.Tables) (c : ChainId) : (s.tellWatchers c).Tables :=
  hs.congr ⟨by simp, by simp, by simp, by simp, by simp, by simp, by simp, fun o => by simp⟩

theorem State.Tables.enumFault (hs : s.Tables) {c : ChainId} (hp : (s.chains[c]).phase.enumerates) (cause : FaultCause) :
    (s.enumFault c cause).Tables :=
  (hs.enumPhase (f := fun x => { x with phase := .fault cause, op := none, targetCount := 0, totalIr := 0, capture := [] })
    hp ⟨rfl, rfl⟩ (fun _ => nofun) trivial).tellWatchers c

/-- Allocation does not read the chains. -/
theorem allocate_updChain (s : State) (c : ChainId) (f : Chain → Chain) (ids : List (Option Word32))
    (ds : List Description) : (s.updChain c f).allocate c ids ds = (s.allocate c ids ds).updChain c f := by
  have hfree : (s.updChain c f).freeSlots = s.freeSlots := by
    rw [State.freeSlots, State.updChain_slots, State.freeSlots]
  refine state_ext (by simp) (by simp) (by simp) (by simp) (by simp) (by simp) (vector_ext fun i => ?_)
    (by simp) (by simp) (vector_ext fun d => by simp) (by simp) (by simp)
  rw [State.updChain_slots, State.allocate, State.allocate, State.mapSlots_getElem, State.mapSlots_getElem,
    State.updChain_slots, hfree]

/-- The closing action faults the chain or gives it its records (R35, R43). -/
theorem State.Tables.closeEnum (hs : s.Tables) {c : ChainId} {ids : List (Option Word32)} {total : Nat}
    {pattern : List Bool} (hp : (s.chains[c]).phase = .enumerating (.closing ids total pattern)) :
    (s.closeEnum c ids total pattern).Tables := by
  have hen : (s.chains[c]).phase.enumerates := .inr ⟨_, hp⟩
  have hlen : ids.length ≤ 16 := by
    have hsized := hs.sized c
    rw [hp] at hsized
    exact hsized
  unfold State.closeEnum
  split
  · exact hs.enumFault hen .directoryFull
  · generalize describeNew s.profiles ids total pattern = found
    unfold State.finishEnum
    dsimp only
    rw [← allocate_updChain]
    refine (State.Tables.allocate (s := s.updChain c _) ?_ found.1 ?_ hlen fun i r hr => ?_).tellWatchers c
    · exact hs.enumPhase hen ⟨rfl, rfl⟩ (fun _ => nofun) trivial
    · rw [Fin.getElem_fin, State.updChain_getElem, if_pos rfl]
    · exact hs.no_records hen hr

end

end Sys2Proof.Machine
end

section
/-! PROOFS. The laws of the tables through every effect of a request. -/

namespace Sys2Proof.Machine
set_option Elab.async false

section
variable {s : State}

/-! ### Sessions, settings and lines -/

/-- Sessions may change as long as OPEN ones stay OPEN. -/
theorem State.Tables.withSessions (hs : s.Tables) {v : Vector (Option Session) 4}
    (h : ∀ l : SessionId, (s.sessions[l]).isSome = true → (v[l]).isSome = true) :
    ({ s with sessions := v } : State).Tables :=
  hs.idle ⟨rfl, rfl, fun _ => rfl, fun _ => rfl, fun _ => rfl, fun _ => rfl, fun _ _ => ⟨rfl, rfl, id⟩, h, id⟩

/-- A session slot takes a session that is OPEN if there was one. -/
theorem State.Tables.setSession (hs : s.Tables) {l : SessionId} {o : Option Session}
    (h : (s.sessions[l]).isSome = true → o.isSome = true) : (s.setSession l o).Tables :=
  hs.withSessions fun m hm => by
    rw [Fin.getElem_fin, set_getElem]
    split
    · next heq => exact h (heq ▸ hm)
    · exact hm

/-- Chains may change in what is neither phase nor queue nor park list. -/
theorem State.Tables.updSettings (hs : s.Tables) {c : ChainId} {f : Chain → Chain}
    (hf : ∀ x, (f x).phase = x.phase ∧ (f x).queue = x.queue ∧ (f x).parks = x.parks) : (s.updChain c f).Tables := by
  have hchain : ∀ d : ChainId, ((s.updChain c f).chains[d]).phase = (s.chains[d]).phase ∧
      ((s.updChain c f).chains[d]).queue = (s.chains[d]).queue ∧
      ((s.updChain c f).chains[d]).parks = (s.chains[d]).parks := fun d => by
    rw [Fin.getElem_fin, State.updChain_getElem]
    split
    · next hd => subst hd; exact hf _
    · exact ⟨rfl, rfl, rfl⟩
  exact hs.idle ⟨rfl, rfl, fun d => (hchain d).1, fun d => (hchain d).2.1, fun d => (hchain d).2.2, fun _ => rfl,
    fun _ _ => ⟨rfl, rfl, id⟩, fun _ => id, id⟩

/-- Lines may change in what is not their binding, an unbound one only in its levels. -/
theorem State.Tables.updLines (hs : s.Tables) {f : LineId → EventLine → EventLine}
    (hf : ∀ e x, (f e x).binding = x.binding ∧ (x.binding = none → (f e x).polarity = x.polarity ∧
      (f e x).mode = x.mode ∧ (x.flag = false → (f e x).flag = false))) : (s.mapLines f).Tables := by
  have hline : ∀ e : LineId, (s.mapLines f).lines[e] = f e s.lines[e] := fun e => by
    rw [Fin.getElem_fin, State.mapLines_getElem]
    rfl
  refine hs.idle ⟨rfl, rfl, fun _ => rfl, fun _ => rfl, fun _ => rfl, fun e => ?_, fun e he => ?_, fun _ => id, id⟩
  · rw [hline]
    exact (hf e _).1
  · rw [hline]
    exact (hf e _).2 he

/-! ### Bindings -/

/-- What a line is bound to after BIND-EVENT: the line itself to the record, and no other line to it. -/
theorem bindLine_binding {h k : Handle} {e d : LineId} {p : Polarity} {m : ReportMode} :
    ((s.bindLine h e p m).lines[d]).binding = some k ↔
      (d = e ∧ k = h) ∨ (d ≠ e ∧ k ≠ h ∧ (s.lines[d]).binding = some k) := by
  rw [Fin.getElem_fin, State.bindLine_getElem]
  by_cases hd : d = e
  · rw [if_pos hd]
    exact ⟨fun hk => .inl ⟨hd, (Option.some.inj hk).symm⟩, fun hk => hk.elim (fun hk => congrArg some hk.2.symm)
      fun hk => absurd hd hk.1⟩
  · rw [if_neg hd]
    split
    · next hb =>
      refine ⟨nofun, fun hk => hk.elim (fun hk => absurd hk.1 hd) fun hk => ?_⟩
      exact absurd (Option.some.inj (hk.2.2.symm.trans hb)) hk.2.1
    · next hb =>
      refine ⟨fun hk => .inr ⟨hd, fun hkh => hb (hkh ▸ hk), hk⟩, fun hk => hk.elim (fun hk => absurd hk.1 hd) fun hk => hk.2.2⟩

/-- What a line is bound to after the record's line is unbound. -/
theorem unbindRecord_binding {h k : Handle} {d : LineId} :
    ((s.unbindRecord h).lines[d]).binding = some k ↔ k ≠ h ∧ (s.lines[d]).binding = some k := by
  rw [Fin.getElem_fin, State.unbindRecord_getElem]
  split
  · next hb => exact ⟨nofun, fun hk => absurd (Option.some.inj (hk.2.symm.trans hb)) hk.1⟩
  · next hb => exact ⟨fun hk => ⟨fun hkh => hb (hkh ▸ hk), hk⟩, And.right⟩

/-- BIND-EVENT binds a line to a live record, and no other line (R159). -/
theorem State.Tables.bindLine (hs : s.Tables) {h : Handle} {i : SlotId} {r : TargetRecord} (hn : s.named h = some (i, r))
    (e : LineId) (p : Polarity) (m : ReportMode) : (s.bindLine h e p m).Tables := by
  obtain ⟨hlive, honly, hfree⟩ := hs.lines
  refine hs.withLines ⟨fun d k hd => ?_, fun d d' k hd hd' => ?_, fun d hd => ?_⟩
  · obtain ⟨-, rfl⟩ | ⟨-, -, hb⟩ := bindLine_binding.mp hd
    · exact ⟨i, r, hn⟩
    · exact hlive d k hb
  · obtain ⟨rfl, rfl⟩ | ⟨-, hk, hb⟩ := bindLine_binding.mp hd <;>
      obtain ⟨rfl, hk'⟩ | ⟨-, hk', hb'⟩ := bindLine_binding.mp hd'
    · rfl
    · exact absurd rfl hk'
    · exact absurd hk' hk
    · exact honly d d' k hb hb'
  · change ((s.bindLine h e p m).lines[d]).binding = none at hd
    change ((s.bindLine h e p m).lines[d]).polarity = _ ∧ ((s.bindLine h e p m).lines[d]).mode = _ ∧
      ((s.bindLine h e p m).lines[d]).flag = _
    rw [Fin.getElem_fin, State.bindLine_getElem] at hd ⊢
    split at hd
    · cases hd
    · next hde =>
      rw [if_neg hde]
      split at hd
      · next hb => rw [if_pos hb]; exact ⟨rfl, rfl, rfl⟩
      · next hb => rw [if_neg hb]; exact hfree d hd

/-- UNBIND-EVENT leaves the record's line at its unbound values (R160). -/
theorem State.Tables.unbindRecord (hs : s.Tables) (h : Handle) : (s.unbindRecord h).Tables := by
  obtain ⟨hlive, honly, hfree⟩ := hs.lines
  refine hs.withLines ⟨fun d k hd => hlive d k (unbindRecord_binding.mp hd).2,
    fun d d' k hd hd' => honly d d' k (unbindRecord_binding.mp hd).2 (unbindRecord_binding.mp hd').2, fun d hd => ?_⟩
  change ((s.unbindRecord h).lines[d]).binding = none at hd
  change ((s.unbindRecord h).lines[d]).polarity = _ ∧ ((s.unbindRecord h).lines[d]).mode = _ ∧
    ((s.unbindRecord h).lines[d]).flag = _
  rw [Fin.getElem_fin, State.unbindRecord_getElem] at hd ⊢
  split at hd
  · next hb => rw [if_pos hb]; exact ⟨rfl, rfl, rfl⟩
  · next hb => rw [if_neg hb]; exact hfree d hd

/-! ### Descriptions -/

theorem State.Tables.mapRecords (hs : s.Tables) {f : SlotId → TargetRecord → TargetRecord}
    (hf : ∀ (i : SlotId) (r : TargetRecord), (s.slots[i]).record = some r → RecordStep s i r (f i r)) :
    (s.mapRecords f).Tables := by
  have hslot : ∀ i : SlotId, (s.mapRecords f).slots[i] =
      { s.slots[i] with record := (s.slots[i]).record.map (f i) } := fun i => by
    rw [Fin.getElem_fin, State.mapRecords_getElem]
    rfl
  exact (hs.withRecords (v := (s.mapRecords f).slots) hslot hf).congr
    ⟨by simp, by simp, by simp, rfl, by simp, by simp, by simp, by simp⟩

/-- A record with another description in the same place, state and resident, of the same class while its park pends. -/
theorem State.Tables.recordStep_described (hs : s.Tables) {i : SlotId} {r q : TargetRecord}
    (hr : (s.slots[i]).record = some r) (hchain : q.chain = r.chain) (hposition : q.position = r.position)
    (hstate : q.state = r.state) (hresident : q.resident = r.resident)
    (hclass : s.parkPending r.chain (s.handleOf i) → q.residentClass = r.residentClass) : RecordStep s i r q := by
  obtain ⟨-, -, howner, -, hunknown, hreturning, -, -⟩ := hs.recordStep_refl hr
  exact ⟨hchain, hposition, hstate ▸ howner, hstate ▸ Iff.rfl, hstate ▸ hresident ▸ hunknown, hstate ▸ hreturning,
    fun _ _ _ _ _ => .inl hstate, fun hp => ⟨hstate, hclass hp⟩⟩

/-- An IR length does not bear on the resident class. -/
theorem TargetRecord.residentClass_shape (r : TargetRecord) (x : Shape) :
    ({ r with shape := x } : TargetRecord).residentClass = r.residentClass := by
  unfold TargetRecord.residentClass
  cases r.resident with
  | resetDefault => rfl
  | unknown => rfl
  | index k =>
    dsimp only
    unfold TargetRecord.entry
    split <;> rfl

/-- An owned record has no park pending. -/
theorem State.Tables.not_pending_of_owner (hs : s.Tables) {i : SlotId} {r : TargetRecord} {l : SessionId} {c : ChainId}
    (hr : (s.slots[i]).record = some r) (ho : r.state.owner = some l) : ¬ s.parkPending c (s.handleOf i) := fun hp => by
  rw [(hs.pending_state hr hp).1] at ho
  cases ho

/-- DESCRIBE writes the descriptions of an owned record and of one whose length it deduces (R72). -/
theorem State.Tables.writeDescription (hs : s.Tables) {i : SlotId} {r : TargetRecord} {l : SessionId}
    (hr : (s.slots[i]).record = some r) (ho : r.ownedBy l = true) (p : LengthPlan) (es : List Edit) :
    (s.writeDescription i p es).Tables := by
  refine hs.mapRecords fun k q hq => ?_
  split
  · next hk =>
    subst hk
    cases hr.symm.trans hq
    exact hs.recordStep_described hr rfl rfl rfl rfl fun hp => absurd hp (hs.not_pending_of_owner hr (ownedBy_eq_true.mp ho))
  · split
    · split
      · exact hs.recordStep_described hq rfl rfl rfl rfl fun _ => q.residentClass_shape _
      · exact hs.recordStep_refl hq
    · exact hs.recordStep_refl hq

/-! ### Requests -/

theorem ChainPhase.of_gate {p : ChainPhase} (h : p.gate = none) : ¬ p.isFault ∧ p ≠ .resetting .returning := by
  cases p with
  | resetting d => cases h
  | fault k => cases h
  | _ => exact ⟨id, nofun⟩

theorem ChainPhase.working_of_resetGate {p : ChainPhase} (h : p.resetGate = none) : p.working := by
  cases p with
  | ready => exact .inl rfl
  | scanning x => exact .inr ⟨x, rfl⟩
  | _ => cases h

/-- A job that may enter finds its chain working and its target CLAIMED by the session (R80 to R82). -/
theorem State.Tables.of_enterable (hs : s.Tables) {l : SessionId} {c : ChainId} {kind : JobKind}
    (h : s.enterable l c kind) : (s.chains[c]).phase.working ∧
      ∀ k, kind.target = some k → ∃ i r, s.named k = some (i, r) ∧ r.chain = c ∧ r.state = .claimed l := by
  obtain ⟨k, i, r, htarget, hn, ho, rfl, hgate⟩ | ⟨rfl, hgate⟩ := h
  · obtain ⟨hfault, hreturning⟩ := ChainPhase.of_gate hgate
    have hr := (State.named_eq_some.mp hn).1
    have hsuspect := hs.not_suspect hr hfault
    refine ⟨hs.working_of_phase hr hsuspect hreturning, fun k' hk' => ?_⟩
    cases htarget.symm.trans hk'
    refine ⟨i, r, hn, rfl, (RecordState.of_owner (ownedBy_eq_true.mp ho)).resolve_right fun h => ?_⟩
    rw [h] at hsuspect
    exact hsuspect trivial
  · exact ⟨ChainPhase.working_of_resetGate hgate, nofun⟩

/-- Whatever a request does, the tables keep their laws. -/
theorem RequestEffect.tables {q : Request} {l : LinkId} {u : State} (h : RequestEffect q l s u) (hs : s.Tables) :
    u.Tables := by
  cases h with
  | unchanged => exact hs
  | opened x hnone _ => exact hs.setSession fun _ => rfl
  | closed => exact hs.endSession l
  | causesEmptied => exact hs.congr ⟨rfl, rfl, rfl, rfl, rfl, rfl, rfl, fun _ => rfl⟩
  | acknowledged c => exact hs.setSession fun h => Option.isSome_map.trans h
  | claimed i r ho hr hstate hgate => exact hs.claim ho hr hstate (ChainPhase.of_gate hgate).2
  | released i r hr ho => exact hs.releaseClaim hr ho
  | described i r n p es hr ho => exact hs.writeDescription hr ho p es
  | entered j c kind idle wait ho hj hheld henter =>
    obtain ⟨hworking, htarget⟩ := hs.of_enterable henter
    exact hs.enterJob ho hj hheld hworking htarget
  | freed j x hx _ hrun =>
    refine hs.freeJobs fun k y hy hrunning => decide_eq_false ?_
    rintro rfl
    cases hx.symm.trans hy
    rw [Job.isRunning, hrunning, decide_eq_true rfl] at hrun
    cases hrun
  | rescanned c _ hallowed => exact hs.rescanChain hallowed
  | configured c x => exact hs.updSettings fun _ => ⟨rfl, rfl, rfl⟩
  | profiled ps => exact hs.congr ⟨rfl, rfl, rfl, rfl, rfl, rfl, rfl, fun _ => rfl⟩
  | bound h i r e p m hn => exact hs.bindLine hn e p m
  | unbound h => exact hs.unbindRecord h
  | reported =>
    refine hs.updLines fun e x => ?_
    split
    · exact ⟨rfl, fun _ => ⟨rfl, rfl, fun _ => rfl⟩⟩
    · exact ⟨rfl, fun _ => ⟨rfl, rfl, id⟩⟩

end

end Sys2Proof.Machine
end

section
/-! PROOFS. Every event keeps the laws of the tables, and the state after POWER_ON meets them. -/

namespace Sys2Proof.Machine
set_option Elab.async false

section
variable {s : State}

/-! ### Grants -/

/-- The selection disposes of QUEUED jobs only, each DONE with LENGTH_MISMATCH (R87). -/
theorem State.Tables.selectJob {c : ChainId} (n : Nat) {s : State} (hs : s.Tables) : (selectJob n c s).1.Tables := by
  induction n generalizing s with
  | zero => exact hs
  | succ n ih =>
    rw [Machine.selectJob]
    split
    · exact hs
    · next j x hfirst =>
      split
      · obtain ⟨_, _, _, hx, hqueued, _⟩ := State.firstGrantable_iff.mp hfirst
        obtain ⟨y, hy, hc, _⟩ := (hs.queues.1 c j).mp (State.firstGrantable_iff.mp hfirst).mem
        cases hx.symm.trans hy
        exact ih (hc ▸ hs.finishQueued hx hqueued .lengthMismatch [])
      · exact hs

theorem State.jobScan_source (s : State) (c : ChainId) (j : JobId) (y : Job) : (s.jobScan c j y).source = .job j := by
  unfold State.jobScan
  split <;> rfl

/-- A grant of a READY chain begins a park, a job, or nothing (R85, R87). -/
theorem State.Tables.grantOn (hs : s.Tables) {c : ChainId} (hp : (s.chains[c]).phase = .ready) : (s.grantOn c).Tables := by
  unfold State.grantOn
  split
  · next h rest hparks => exact hs.grantPark hp hparks
  · have hselected := hs.selectJob (c := c) ((s.chains[c]).queue.length + 1)
    have hphase := selectJob_phase ((s.chains[c]).queue.length + 1) s c c
    split
    · next t j x hselect =>
      rw [hselect] at hselected hphase
      obtain ⟨holdest, -⟩ := selectJob_some _ hselect
      have hmem := holdest.mem
      obtain ⟨_, _, _, hx, hqueued, _⟩ := holdest
      exact hselected.grantJob (hphase.trans hp) hmem hx hqueued (t.jobScan_source c j x)
    · next t hselect =>
      rw [hselect] at hselected
      exact hselected

/-! ### The tick and the release of RESET_N -/

/-- A sample keeps a line's binding, and an unbound line's polarity, mode and clear flag (R157, R158). -/
theorem EventLine.sample_kept (x : EventLine) (v : Bool) : (x.sample v).binding = x.binding ∧
    (x.binding = none → (x.sample v).polarity = x.polarity ∧ (x.sample v).mode = x.mode ∧
      (x.flag = false → (x.sample v).flag = false)) := by
  unfold EventLine.sample
  split
  · exact ⟨rfl, fun _ => ⟨rfl, rfl, id⟩⟩
  · split
    · refine ⟨rfl, fun hb => ⟨rfl, rfl, fun hf => ?_⟩⟩
      rw [EventLine.reports_eq, hb, hf, Option.isSome_none, Bool.false_and, Bool.and_false, Bool.or_false]
    · exact ⟨rfl, fun _ => ⟨rfl, rfl, id⟩⟩

theorem State.Tables.ticked (hs : s.Tables) (pins : BitVec 8) : (s.tick pins).Tables := by
  have hsessions : (s.mapSessions fun _ x => x.tick).Tables := hs.withSessions fun l hl => by
    rw [Fin.getElem_fin, Vector.getElem_ofFn, Option.isSome_map]
    exact hl
  exact hsessions.tickJobs.updLines fun e x => x.sample_kept _

theorem Chain.resume_kept (x : Chain) : x.resume.phase = x.phase ∧ x.resume.queue = x.queue ∧ x.resume.parks = x.parks := by
  unfold Chain.resume
  split <;> exact ⟨rfl, rfl, rfl⟩

/-- The release of RESET_N starts the tick and keeps the tables (R127, R187). -/
theorem State.Tables.resumed (hs : s.Tables) :
    ({ (s.mapChains fun _ x => x.resume) with resetLow := false, tickRunning := true } : State).Tables := by
  have hchain : ∀ d : ChainId, (s.mapChains fun _ x => x.resume).chains[d] = (s.chains[d]).resume := fun d => by
    rw [Fin.getElem_fin, State.mapChains_getElem]
    rfl
  refine hs.idle ⟨rfl, rfl, fun d => ?_, fun d => ?_, fun d => ?_, fun _ => rfl, fun _ _ => ⟨rfl, rfl, id⟩, fun _ => id,
    fun _ _ => rfl⟩
  · exact (congrArg Chain.phase (hchain d)).trans (Chain.resume_kept _).1
  · exact (congrArg Chain.queue (hchain d)).trans (Chain.resume_kept _).2.1
  · exact (congrArg Chain.parks (hchain d)).trans (Chain.resume_kept _).2.2

/-! ### Every event -/

/-- Whatever happens to the tables, they keep their laws. -/
theorem TableEvent.tables {u : State} (h : TableEvent s u) (hs : s.Tables) : u.Tables := by
  cases h with
  | same => exact hs
  | request q l heffect => exact heffect.tables hs
  | cleared hcleared => exact hcleared.tables
  | warm => exact hs.warmReset
  | resumed => exact hs.resumed
  | ended l => exact hs.endSession l
  | timedOut j x hx hqueued => exact hs.finishQueued hx hqueued .timeout []
  | ticked pins => exact hs.ticked pins
  | granted c hp => exact hs.grantOn hp
  | completed c x tdi hp => exact hs.completeScan hp tdi
  | faulted c x hp => exact hs.declareFault hp
  | chainReset c x j hp hj => exact hs.chainReset hp hj
  | returned c hp => exact hs.returned hp
  | enumStep c step op hp hsized => exact hs.enumPhase hp ⟨rfl, rfl⟩ (fun _ => nofun) (hsized (hs.sized c))
  | enumFault c cause hp => exact hs.enumFault hp cause
  | closed c ids total pattern hp => exact hs.closeEnum hp

end

/-- Settles O59: whatever the command, the tables move by one `TableEvent`, each of which keeps the laws; the replies and
notices after it do not touch the tables. -/
theorem tablesKeepTheirLaws : Obligations.TablesKeepTheirLaws := by
  intro s t hs h
  refine step_keeps (P := State.tablesLaw) (fun _ _ hs => hs) (fun i s t hs h => ?_) hs h
  obtain ⟨u, hevent, hagree⟩ := exec_tableMove i h
  exact State.tables_iff.mp ((hevent.tables (State.tables_iff.mpr hs)).congr hagree)

theorem Hlu.powerOn_laws (divisor : Nat) : (Hlu.powerOn divisor).laws :=
  Hlu.laws_iff.mpr ⟨Hlu.replyLaws_of_not_taken nofun rfl nofun rfl, Hlu.receiverLaws_of_hunt rfl rfl⟩

/-- Settles O60: every link stands at its power-on values, and the tables are clear. -/
theorem resetMeetsTheLaws : Obligations.ResetMeetsTheLaws := by
  refine ⟨fun l => ?_, State.tables_iff.mp cleared_reset.tables⟩
  have hlink : State.reset.links[l] = Hlu.powerOn 120 := by simp [State.reset]
  rw [hlink]
  exact Hlu.powerOn_laws 120

end Sys2Proof.Machine
end
